-- ==== Sys2Proof/Word.lean ====
section
/-! DEFINITION. The word types of the block: interface registers are 32 bits, radio register values
and field masks 8 bits (00_scope.md R6, R9; 10_state.md R20). Bit 0 is the least significant (R9). -/

namespace Sys2Proof

/-- An interface register or a bus word (10_state.md R20). All values are unsigned (00_scope.md R9). -/
abbrev Word := BitVec 32

/-- A radio register value or a field mask: bit `i` is bit index `i` (00_scope.md R6, R9). -/
abbrev Byte := BitVec 8

end Sys2Proof
end

