-- ==== Sys2Proof/Config.lean ====
section
/-! DEFINITION. The build-time parameters of the block (00_scope.md R5-R8) and the values the spec
leaves open. The constants below have no body: nothing can be proved of what they are. -/

namespace Sys2Proof

/-- The register catalog: for each radio register address, its field masks in definition order
(00_scope.md R6, 10_state.md R29). -/
abbrev Catalog := List (List Byte)

/-- `LAT_op`: the cycles from acceptance to completion, one per opcode and one for illegal
commands (00_scope.md R7; log 14). -/
structure Latencies where
  nop : Nat
  fext : Nat
  fins : Nat
  vbits : Nat
  ffbit : Nat
  drenc : Nat
  drdec : Nat
  dvenc : Nat
  dvdec : Nat
  valid : Nat
  illegal : Nat
  deriving DecidableEq, Repr

/-- The parameters a build fixes: `F_XOSC_HZ` (R5), `CATALOG` (R6), `LAT_op` (R7), `BASE` (R8).
The spec has a model take them as arguments; here they are a field of the state that no step
changes (DESIGN CHOICE, log 1). -/
structure Params where
  fXosc : Nat
  catalog : Catalog
  latency : Latencies
  base : Nat
  deriving DecidableEq, Repr

/-- Open: where the crystal frequency lies in its legal range (00_scope.md R5; log 1). -/
opaque Config.openFXosc : Nat

/-- Open: the catalog the build was given (00_scope.md R6; log 1). -/
opaque Config.openCatalog : Catalog

/-- Open: the latencies, counted from 0 (00_scope.md R7; log 1). -/
opaque Config.openLatency : Nat → Nat

/-- Open: the number of the 64-byte window the platform puts the aperture in (00_scope.md R8; log 1). -/
opaque Config.openWindow : Nat

/-- Free value: what the operand snapshot latches A, B, C, D (numbers 0..3) hold after reset
("unspecified and unobservable", 10_state.md R31; 93 I16; log 5). -/
opaque Config.snapshotAtReset : Nat → Word

end Sys2Proof
end

