-- ==== Sys2Proof/Syntax.lean ====
section
/-! DEFINITION. The commands of the block, one constructor per row of the opcode table. A command
word carries no immediate and no register field (30_encoding.md R70): the operands are always the
operand registers, so no constructor has an argument. -/

namespace Sys2Proof

/-- The ten commands (30_encoding.md R71). -/
inductive Instr where
  /-- 0x00, no operation (40_command.md R94). -/
  | nop
  /-- 0x01, extract a field from a register value (41_bitfield.md R101). -/
  | fext
  /-- 0x02, pack a field value into a register value (41_bitfield.md R102). -/
  | fins
  /-- 0x03, valid bit set of a register (41_bitfield.md R103). -/
  | vbits
  /-- 0x04, the field that holds a bit (41_bitfield.md R104). -/
  | ffbit
  /-- 0x10, data rate to (E, M) (42_quantizer.md R131). -/
  | drenc
  /-- 0x11, (E, M) to data rate (42_quantizer.md R133). -/
  | drdec
  /-- 0x12, deviation to deviation byte (42_quantizer.md R134). -/
  | dvenc
  /-- 0x13, deviation byte to deviation (42_quantizer.md R135). -/
  | dvdec
  /-- 0x20, check a parameter set (43_validator.md R162). -/
  | valid
  deriving DecidableEq, Repr

end Sys2Proof
end

