-- ==== Sys2Proof/WellFormed.lean ====
section
/-! DEFINITION. Well-formedness. A command has no operand field, so every `Instr` is well-formed;
what a build must check are its parameters: the catalog (10_state.md R30), the crystal frequency,
the latencies and the aperture's base (00_scope.md R5, R7, R8). -/

namespace Sys2Proof

/-- Every command is well-formed: the command word has no operand fields (30_encoding.md R70). -/
def Instr.wf (_ : Instr) : Bool := true

/-- The mask's set bits form one run `lo..lo+n` inside the byte (10_state.md R30, condition 5).
The empty mask is no run (condition 3). -/
def Mask.isRun (m : Byte) : Bool :=
  (List.range 8).any fun lo =>
    (List.range (8 - lo)).any fun n => m.toNat == (2 ^ (n + 1) - 1) * 2 ^ lo

/-- No two masks of the list share a bit (10_state.md R30, condition 4). -/
def Mask.disjoint : List Byte → Bool
  | [] => true
  | m :: ms => ms.all (fun m' => m &&& m' == 0) && Mask.disjoint ms

/-- One register's field list meets conditions 2 to 5 of 10_state.md R30. -/
def Catalog.entryWf (ms : List Byte) : Bool :=
  decide (ms.length ≤ 8) && ms.all (fun m => m != 0) && Mask.disjoint ms && ms.all Mask.isRun

/-- A catalog a build accepts (10_state.md R30, conditions 1 to 5). -/
def Catalog.wf (c : Catalog) : Bool :=
  c.length == 47 && c.all Catalog.entryWf

/-- Every latency is at least one cycle (00_scope.md R7). -/
def Latencies.wf (l : Latencies) : Bool :=
  decide (1 ≤ l.nop ∧ 1 ≤ l.fext ∧ 1 ≤ l.fins ∧ 1 ≤ l.vbits ∧ 1 ≤ l.ffbit ∧ 1 ≤ l.drenc ∧
    1 ≤ l.drdec ∧ 1 ≤ l.dvenc ∧ 1 ≤ l.dvdec ∧ 1 ≤ l.valid ∧ 1 ≤ l.illegal)

/-- Parameters a build may have: a legal crystal frequency (00_scope.md R5), a well-formed catalog
(10_state.md R30), latencies of at least one cycle (R7), a base that is a multiple of 64 (R8). -/
def Params.wf (p : Params) : Bool :=
  decide (1000000 ≤ p.fXosc ∧ p.fXosc ≤ 64000000) && Catalog.wf p.catalog && Latencies.wf p.latency &&
    p.base % 64 == 0

/-- The parameters of the block that was built, from the open constants of Config: every legal
choice of `F_XOSC_HZ`, `CATALOG`, `LAT_op` and `BASE` is one of them, and "a build must reject any
other CATALOG" (10_state.md R30): one with no fields stands for it (log 1). -/
def Config.params : Params where
  fXosc := 1000000 + Config.openFXosc % 63000001
  catalog := if Catalog.wf Config.openCatalog then Config.openCatalog else List.replicate 47 []
  latency :=
    { nop := Config.openLatency 0 + 1, fext := Config.openLatency 1 + 1
      fins := Config.openLatency 2 + 1, vbits := Config.openLatency 3 + 1
      ffbit := Config.openLatency 4 + 1, drenc := Config.openLatency 5 + 1
      drdec := Config.openLatency 6 + 1, dvenc := Config.openLatency 7 + 1
      dvdec := Config.openLatency 8 + 1, valid := Config.openLatency 9 + 1
      illegal := Config.openLatency 10 + 1 }
  base := 64 * Config.openWindow

end Sys2Proof
end

