-- ==== Sys2Proof/Decode.lean ====
section
/-! DEFINITION. The decoder of the command word, total on every 32-bit word (30_encoding.md R70-R73),
the byte lanes a word crosses the bus on (20_memory.md R53), and the encoder. -/

namespace Sys2Proof

/-- Why a word is no command (30_encoding.md R72). -/
inductive Illegal where
  /-- RSV, bits [31:8], is not 0 (R70). -/
  | reservedNotZero
  /-- RSV is 0 and OPC is not in the table of R71. -/
  | opcodeUndefined
  deriving DecidableEq, Repr

/-- OPC, bits [7:0] of a command word (30_encoding.md R70). -/
def opcField (w : Word) : Byte := w.extractLsb' 0 8

/-- RSV, bits [31:8] of a command word (30_encoding.md R70). -/
def rsvField (w : Word) : BitVec 24 := w.extractLsb' 8 24

/-- The opcode map (30_encoding.md R71). -/
def decodeOpcode (opc : Byte) : Except Illegal Instr :=
  match opc.toNat with
  | 0x00 => .ok .nop
  | 0x01 => .ok .fext
  | 0x02 => .ok .fins
  | 0x03 => .ok .vbits
  | 0x04 => .ok .ffbit
  | 0x10 => .ok .drenc
  | 0x11 => .ok .drdec
  | 0x12 => .ok .dvenc
  | 0x13 => .ok .dvdec
  | 0x20 => .ok .valid
  | _ => .error .opcodeUndefined

/-- The decoder: "A command word selects an instruction iff RSV = 0 and OPC is in this table"
(30_encoding.md R71); every other word is illegal (R72). -/
def decode (w : Word) : Except Illegal Instr :=
  if rsvField w = 0 then decodeOpcode (opcField w) else .error .reservedNotZero

/-- Byte lane `k` of a word carries bits [8k+7 : 8k] (20_memory.md R53). -/
def byteLane (w : Word) (k : Nat) : Byte := w.extractLsb' (8 * k) 8

/-- The word of four byte lanes, lane 0 at the lowest address (20_memory.md R53: little-endian). -/
def wordOfLanes (b0 b1 b2 b3 : Byte) : Word := b3 ++ b2 ++ b1 ++ b0

/-- The decoder on the four bytes of a CMD write, lowest address first (20_memory.md R53). -/
def decodeLanes (b0 b1 b2 b3 : Byte) : Except Illegal Instr := decode (wordOfLanes b0 b1 b2 b3)

/-- The opcode of a command (30_encoding.md R71). -/
def opcodeOf : Instr → Byte
  | .nop => 0x00#8
  | .fext => 0x01#8
  | .fins => 0x02#8
  | .vbits => 0x03#8
  | .ffbit => 0x04#8
  | .drenc => 0x10#8
  | .drdec => 0x11#8
  | .dvenc => 0x12#8
  | .dvdec => 0x13#8
  | .valid => 0x20#8

/-- The command word: OPC in [7:0], RSV = 0 (30_encoding.md R70). -/
def encode (i : Instr) : Word := 0#24 ++ opcodeOf i

/-- The word whose low `nbits` bits are those of `w`, every bit above them 0. -/
def tableWord (nbits w : Nat) : Word := BitVec.ofNat 32 (w % 2 ^ nbits)

/-- The command the decoder reads from an opcode-table word, through the byte lanes the bus
delivers it on. -/
def decodeTableWord (nbits w : Nat) : Option Instr :=
  let v := tableWord nbits w
  match decodeLanes (byteLane v 0) (byteLane v 1) (byteLane v 2) (byteLane v 3) with
  | .ok i => some i
  | .error _ => none

end Sys2Proof
end

