-- ==== Sys2Proof/Machine/Bus.lean ====
section
/-! DEFINITION. The host's side of the bus: what the host does in one cycle, the register map of the
aperture (20_memory.md R51), and the answers of the block. -/

namespace Sys2Proof.Machine

/-- The eleven interface registers of the aperture (10_state.md R20). -/
inductive BusReg where
  | cmd | status | ctrl | fxosc | opa | opb | opc | opd | res0 | res1 | res2
  deriving DecidableEq, Repr

/-- The direction of an access; a write carries its data. -/
inductive BusOp where
  | read
  | write (data : Word)
  deriving DecidableEq, Repr

/-- One bus access: its byte address on the host bus, its width in bytes, its direction
(20_memory.md R52). Only 4 bytes at a multiple of 4 are accepted, so data of other widths is not
represented (log 13). -/
structure Access where
  addr : Nat
  bytes : Nat
  op : BusOp
  deriving DecidableEq, Repr

/-- What the host side does in one cycle (DESIGN CHOICE, log 2). -/
inductive HostOp where
  /-- No access in this cycle. -/
  | idle
  /-- The reset input is asserted in this cycle (70_reset_and_hazards.md R210; log 10). -/
  | reset
  /-- One bus access. -/
  | access (a : Access)
  /-- The polling loop of 30_encoding.md R83: read STATUS, again in the next cycle while bit 0 is 1. -/
  | wait
  deriving DecidableEq, Repr

/-- What the block answered on the bus in the last cycle (the model's own field, log 2). -/
inductive Response where
  /-- The block performed no access. -/
  | none
  /-- A write was accepted (with or without an effect, 20_memory.md R54, R55). -/
  | ack
  /-- A read returned this word. -/
  | data (w : Word)
  deriving DecidableEq, Repr

/-- The offset of a register from BASE (20_memory.md R51). -/
def BusReg.offset : BusReg → Nat
  | .cmd => 0x00
  | .status => 0x04
  | .ctrl => 0x08
  | .fxosc => 0x0C
  | .opa => 0x10
  | .opb => 0x14
  | .opc => 0x18
  | .opd => 0x1C
  | .res0 => 0x20
  | .res1 => 0x24
  | .res2 => 0x28

/-- The register at an offset, none at a reserved offset (20_memory.md R51, R54). -/
def regAt (off : Nat) : Option BusReg :=
  match off with
  | 0x00 => some .cmd
  | 0x04 => some .status
  | 0x08 => some .ctrl
  | 0x0C => some .fxosc
  | 0x10 => some .opa
  | 0x14 => some .opb
  | 0x18 => some .opc
  | 0x1C => some .opd
  | 0x20 => some .res0
  | 0x24 => some .res1
  | 0x28 => some .res2
  | _ => none

end Sys2Proof.Machine
end

