-- ==== Sys2Proof/Machine/State.lean ====
section
/-! DEFINITION. The state of the block: the interface registers, the hidden state and the build
parameters of 10_state.md (R20-R36), and beside them the host's pending side of the bus. Plain data.
The block has one address space and it holds registers only (20_memory.md R50): there is no memory
to list (log 12). -/

namespace Sys2Proof.Machine

/-- The per-command flags, STATUS bits 3 and 8..15 (10_state.md R24; causes in 60_exceptions.md
R190). A set of raised flags is written by naming them. -/
structure Flags where
  /-- Bit 3: the command word was illegal. -/
  illegal : Bool := false
  /-- Bit 8: FEXT or FINS with an empty mask. -/
  empty : Bool := false
  /-- Bit 9: FEXT or FINS with a non-contiguous mask. -/
  ncontig : Bool := false
  /-- Bit 10: FINS with a value wider than the field. -/
  vovf : Bool := false
  /-- Bit 11: VBITS or FFBIT with an address above 46. -/
  badaddr : Bool := false
  /-- Bit 12: FFBIT with a bit index above 7. -/
  badbit : Bool := false
  /-- Bit 13: DRENC with no candidate. -/
  nocand : Bool := false
  /-- Bit 14: DRENC or DVENC input outside the documented domain. -/
  dom : Bool := false
  /-- Bit 15: a VALID output saturated. -/
  sat : Bool := false
  deriving DecidableEq, Repr

/-- The machine's state. -/
structure State where
  /-- The build parameters: FXOSC and the catalog ROM (10_state.md R27, R29), BASE, LAT_op. No step
  changes them. -/
  params : Params
  /-- CMD: the last accepted command word (10_state.md R23). -/
  cmd : Word
  /-- STATUS.DONE (10_state.md R24, R26). -/
  done : Bool
  /-- STATUS.OVERRUN, sticky (10_state.md R24). -/
  overrun : Bool
  /-- STATUS bits 3 and 8..15 (10_state.md R24). -/
  flags : Flags
  /-- STATUS.LASTOP (10_state.md R24). -/
  lastop : Byte
  /-- CTRL.IEN (10_state.md R28). -/
  ien : Bool
  /-- OPA (10_state.md R21). -/
  opa : Word
  /-- OPB (10_state.md R21). -/
  opb : Word
  /-- OPC (10_state.md R21). -/
  opc : Word
  /-- OPD (10_state.md R21). -/
  opd : Word
  /-- RES0 (10_state.md R22). -/
  res0 : Word
  /-- RES1 (10_state.md R22). -/
  res1 : Word
  /-- RES2 (10_state.md R22). -/
  res2 : Word
  /-- Snapshot latch A (10_state.md R31). -/
  snapA : Word
  /-- Snapshot latch B (10_state.md R31). -/
  snapB : Word
  /-- Snapshot latch C (10_state.md R31). -/
  snapC : Word
  /-- Snapshot latch D (10_state.md R31). -/
  snapD : Word
  /-- The in-flight state (10_state.md R32): `some k` while the command in CMD has been accepted and
  has not completed, with `k` cycles still to pass before its completion is due. STATUS.BUSY is
  `inflight.isSome` (R25; log 9). -/
  inflight : Option Nat
  /-- What the host side will do, one entry a cycle, the next one first (log 2). -/
  inputs : List HostOp
  /-- The block's answer on the bus in the last cycle (log 2). -/
  response : Response
  deriving DecidableEq, Repr

/-- Why the machine stops with a fault. -/
inductive Fault where
  /-- Raised by a bus access of the wrong size or alignment inside the aperture: the bus gives an
  error response and the block's state does not change (20_memory.md R52, 60_exceptions.md R198).
  Safe: the hardware goes on after the error response (log 8). -/
  | busError
  deriving DecidableEq, Repr

/-- Why an instruction is refused. -/
inductive Refusal where
  /-- Raised by no instruction of this model: every row of the opcode table has its meaning. It
  would be safe. -/
  | notModelled (mnemonic : String)
  deriving DecidableEq, Repr

/-- The state after reset of a block built with parameters `p` (10_state.md R36): every register 0,
FXOSC and the ROM at their constants, nothing in flight, the snapshot unspecified (a free value,
log 5). `inputs` is what the host side does next. -/
def State.resetWith (p : Params) (inputs : List HostOp) : State where
  params := p
  cmd := 0
  done := false
  overrun := false
  flags := {}
  lastop := 0
  ien := false
  opa := 0
  opb := 0
  opc := 0
  opd := 0
  res0 := 0
  res1 := 0
  res2 := 0
  snapA := Config.snapshotAtReset 0
  snapB := Config.snapshotAtReset 1
  snapC := Config.snapshotAtReset 2
  snapD := Config.snapshotAtReset 3
  inflight := none
  inputs := inputs
  response := .none

/-- The machine right after reset (10_state.md R36, 70_reset_and_hazards.md R212), with the build's
parameters and a host that has nothing pending. -/
def State.reset : State := State.resetWith Config.params []

end Sys2Proof.Machine
end

