-- ==== Sys2Proof/Machine/Flags.lean ====
section
/-! DEFINITION. The flags and the words the host reads them in: STATUS (10_state.md R24), CTRL (R28),
and the interrupt output (R26). Raising a flag is how the block records an exceptional condition
(60_exceptions.md R190, R197). -/

namespace Sys2Proof.Machine

/-- No per-command flag set: what acceptance leaves (40_command.md R90). -/
def Flags.clear : Flags := {}

/-- `raise`: set every flag of `r`, leave the others (00_scope.md R15, 40_command.md R91). -/
def Flags.raise (f r : Flags) : Flags where
  illegal := f.illegal || r.illegal
  empty := f.empty || r.empty
  ncontig := f.ncontig || r.ncontig
  vovf := f.vovf || r.vovf
  badaddr := f.badaddr || r.badaddr
  badbit := f.badbit || r.badbit
  nocand := f.nocand || r.nocand
  dom := f.dom || r.dom
  sat := f.sat || r.sat

/-- STATUS.BUSY: 1 exactly while a command has been accepted and has not completed
(10_state.md R25). -/
def State.busy (s : State) : Bool := s.inflight.isSome

/-- STATUS as the host reads it (10_state.md R24): LASTOP, eight reserved zeros, bits 15..8, four
reserved zeros, ILLEGAL, OVERRUN, DONE, BUSY. -/
def State.statusWord (s : State) : Word :=
  s.lastop ++ 0#8 ++
    (BitVec.ofBool s.flags.sat ++ BitVec.ofBool s.flags.dom ++ BitVec.ofBool s.flags.nocand ++
      BitVec.ofBool s.flags.badbit ++ BitVec.ofBool s.flags.badaddr ++ BitVec.ofBool s.flags.vovf ++
      BitVec.ofBool s.flags.ncontig ++ BitVec.ofBool s.flags.empty) ++
    0#4 ++
    (BitVec.ofBool s.flags.illegal ++ BitVec.ofBool s.overrun ++ BitVec.ofBool s.done ++
      BitVec.ofBool s.busy)

/-- CTRL as the host reads it: IEN in bit 0, the reserved bits 0 (10_state.md R28). -/
def State.ctrlWord (s : State) : Word := 0#31 ++ BitVec.ofBool s.ien

/-- The interrupt output, level-sensitive: `IRQ = STATUS.DONE AND CTRL.IEN` (10_state.md R26,
60_exceptions.md R195). A function of the current state, so it changes with DONE and IEN
(70_reset_and_hazards.md R221). -/
def State.irq (s : State) : Bool := s.done && s.ien

end Sys2Proof.Machine
end

