-- ==== Sys2Proof/Machine/Operands.lean ====
section
/-! DEFINITION. Number primitives (00_scope.md R12-R14), the operand fields commands read from the
snapshot (30_encoding.md R74-R79, R85), the span of a mask (41_bitfield.md R100), and the layouts of
results (30_encoding.md R76, R77, R80-R82). All arithmetic is over Nat, exact (00_scope.md R12). -/

namespace Sys2Proof.Machine

/-! Number primitives. -/

/-- `rhu(p, q) = floor((2p + q) / (2q))`: p/q rounded, an exact half up (00_scope.md R13). -/
def rhu (p q : Nat) : Nat := (2 * p + q) / (2 * q)

/-- Whether `sat32` saturates its argument (00_scope.md R14). -/
def saturates (v : Nat) : Bool := decide (2 ^ 32 ≤ v)

/-- `sat32` (00_scope.md R14). -/
def sat32 (v : Nat) : Word := if saturates v then 0xFFFF_FFFF#32 else BitVec.ofNat 32 v

/-- `|a - b|` of exact integers that are not negative (00_scope.md R15). -/
def absDiff (a b : Nat) : Nat := if a ≤ b then b - a else a - b

/-! Operand fields (30_encoding.md R74). Bits outside a field are ignored (R85). -/

/-- The register value or deviation byte, bits [7:0] of A. -/
def byteOperand (a : Word) : Byte := a.extractLsb' 0 8

/-- The bit-index mask, bits [7:0] of B (30_encoding.md R75). -/
def maskOperand (b : Word) : Byte := b.extractLsb' 0 8

/-- E of a DRW, bits [3:0] (30_encoding.md R76). -/
def drwE (a : Word) : Nat := (a.extractLsb' 0 4).toNat

/-- M of a DRW, bits [15:8] (30_encoding.md R76). -/
def drwM (a : Word) : Nat := (a.extractLsb' 8 8).toNat

/-- E of a deviation byte, bits [6:4]; bit 7 is ignored (30_encoding.md R77). -/
def devE (byte : Byte) : Nat := (byte.extractLsb' 4 3).toNat

/-- M of a deviation byte, bits [2:0]; bit 3 is ignored (30_encoding.md R77). -/
def devM (byte : Byte) : Nat := (byte.extractLsb' 0 3).toNat

/-- The modulation code, bits [2:0] of D (30_encoding.md R78). -/
def modOperand (d : Word) : BitVec 3 := d.extractLsb' 0 3

/-! The span of a mask (41_bitfield.md R100), for a mask that is not 0. -/

/-- The index of the lowest set bit. -/
def lowest (m : Byte) : Nat := ((List.range 8).find? fun i => m.getLsbD i).getD 0

/-- The index of the highest set bit. -/
def highest (m : Byte) : Nat := ((List.range 8).reverse.find? fun i => m.getLsbD i).getD 0

/-- `width(m) = high(m) - low(m) + 1`, 1..8. -/
def width (m : Byte) : Nat := highest m - lowest m + 1

/-- `(1 << n) - 1` as a byte: the `n` low bits. -/
def ones (n : Nat) : Byte := BitVec.ofNat 8 (2 ^ n - 1)

/-- `span(m)`: the contiguous mask from the lowest to the highest set bit. -/
def span (m : Byte) : Byte := ones (width m) <<< lowest m

/-- `contig(m)`: the mask is its own span. -/
def contig (m : Byte) : Bool := span m == m

/-! Result layouts (30_encoding.md R80). -/

/-- `zext_32` of a byte (00_scope.md R15). -/
def zext32 (b : Byte) : Word := b.setWidth 32

/-- A DRW as the block writes it: `(M << 8) OR E`, other bits 0 (30_encoding.md R76). -/
def drwWord (e m : Nat) : Word := BitVec.ofNat 32 (m <<< 8 ||| e)

/-- A deviation byte as the block writes it: `(E << 4) OR M`, zero-extended (30_encoding.md R77). -/
def devWord (e m : Nat) : Word := BitVec.ofNat 32 (e <<< 4 ||| m)

/-- FFBIT's RES0 for a bit found in field `k`: FOUND in bit 8, FIELD below it (30_encoding.md R82). -/
def foundWord (k : Nat) : Word := BitVec.ofNat 32 (1 <<< 8 ||| k)

/-- VALID's RES2: MAXSEV in [18:17], VALID in [16], WCOUNT in [14:12], WMAP in [8:0]
(30_encoding.md R81, 43_validator.md R165). -/
def validWord (maxsev valid count wmap : Nat) : Word :=
  BitVec.ofNat 32 (maxsev <<< 17 ||| valid <<< 16 ||| count <<< 12 ||| wmap)

end Sys2Proof.Machine
end

