-- ==== Sys2Proof/Machine/Ops.lean ====
section
/-! DEFINITION. The named operations over the state: the life cycle of a command (40_command.md
R90-R93), the register accesses of the bus (20_memory.md R50-R64), reset (70_reset_and_hazards.md
R210, R211), and one cycle of the host's side.

The block takes no traps (60_exceptions.md R197): an exceptional condition is a flag recorded at
completion. So taking an exception is the flag part of `complete`, one shared operation, and the
return from one is the host's write of 1 to a STATUS bit in `writeReg` (R192, R196). -/

namespace Sys2Proof.Machine

/-- What a command's rule gives at its completion: the result registers it names and the flags it
raises (40_command.md R91). A result register it does not name is `none` (R95). -/
structure OpResult where
  res0 : Option Word := none
  res1 : Option Word := none
  res2 : Option Word := none
  flags : Flags := {}
  deriving DecidableEq, Repr

/-- Completion (40_command.md R91): write the named results, raise the flags, LASTOP, BUSY 0, DONE 1,
all at one instant (20_memory.md R58). -/
def complete (r : OpResult) (s : State) : State :=
  { s with
    res0 := r.res0.getD s.res0
    res1 := r.res1.getD s.res1
    res2 := r.res2.getD s.res2
    flags := s.flags.raise r.flags
    lastop := opcField s.cmd
    inflight := none
    done := true }

/-- `LAT_op` of a command (00_scope.md R7). -/
def latencyOf (l : Latencies) : Instr → Nat
  | .nop => l.nop
  | .fext => l.fext
  | .fins => l.fins
  | .vbits => l.vbits
  | .ffbit => l.ffbit
  | .drenc => l.drenc
  | .drdec => l.drdec
  | .dvenc => l.dvenc
  | .dvdec => l.dvdec
  | .valid => l.valid

/-- The latency of a command word, legal or not (00_scope.md R7). -/
def wordLatency (l : Latencies) (w : Word) : Nat :=
  match decode w with
  | .ok i => latencyOf l i
  | .error _ => l.illegal

/-- Acceptance of the word `w` (40_command.md R90): latch it into CMD, take the operand snapshot,
clear DONE and the per-command flags (log 6), set BUSY. The completion is due `LAT_op` cycles later: before
the access of the cycle that many cycles on, so `LAT_op - 1` cycles of accesses lie between
(log 4). -/
def accept (w : Word) (s : State) : State :=
  { s with
    cmd := w
    snapA := s.opa
    snapB := s.opb
    snapC := s.opc
    snapD := s.opd
    done := false
    flags := Flags.clear
    inflight := some (wordLatency s.params.latency w - 1) }

/-- The value a read of a register returns (20_memory.md R51). It is a function of the state: no read
has a side effect (R56). -/
def readReg (s : State) : BusReg → Word
  | .cmd => s.cmd
  | .status => s.statusWord
  | .ctrl => s.ctrlWord
  | .fxosc => BitVec.ofNat 32 s.params.fXosc
  | .opa => s.opa
  | .opb => s.opb
  | .opc => s.opc
  | .opd => s.opd
  | .res0 => s.res0
  | .res1 => s.res1
  | .res2 => s.res2

/-- The value a 32-bit read at an aligned offset of the aperture returns; a reserved offset reads 0
(20_memory.md R54). -/
def readOffset (s : State) (off : Nat) : Word :=
  match regAt off with
  | some r => readReg s r
  | none => 0

/-- The byte a bus lane carries in a read at an aligned offset: lane `k` is byte address
`BASE + off + k` (20_memory.md R53). -/
def readLane (s : State) (off k : Nat) : Byte := byteLane (readOffset s off) k

/-- A write of `v` to a register (20_memory.md R51, R55, R57). CMD: acceptance, or OVERRUN while BUSY
(40_command.md R90, R92). STATUS: write 1 to clear DONE and OVERRUN (10_state.md R24). CTRL: bit 0
(R28). OPA..OPD: all bits (R21). FXOSC and RES0..RES2: ignored. -/
def writeReg (r : BusReg) (v : Word) (s : State) : State :=
  match r with
  | .cmd => if s.busy then { s with overrun := true } else accept v s
  | .status => { s with done := s.done && !v.getLsbD 1, overrun := s.overrun && !v.getLsbD 2 }
  | .ctrl => { s with ien := v.getLsbD 0 }
  | .fxosc => s
  | .opa => { s with opa := v }
  | .opb => { s with opb := v }
  | .opc => { s with opc := v }
  | .opd => { s with opd := v }
  | .res0 => s
  | .res1 => s
  | .res2 => s

/-- A 32-bit write at an aligned offset of the aperture; one to a reserved offset is ignored
(20_memory.md R54). -/
def writeOffset (off : Nat) (v : Word) (s : State) : State :=
  match regAt off with
  | some r => writeReg r v s
  | none => s

/-- The address lies in the aperture `BASE + 0x00 .. BASE + 0x3F` (20_memory.md R50). -/
def inAperture (p : Params) (addr : Nat) : Bool := decide (p.base ≤ addr ∧ addr < p.base + 64)

/-- The access is one the block accepts: 32 bits at an offset that is a multiple of 4
(20_memory.md R52). -/
def wordAligned (p : Params) (a : Access) : Bool := a.bytes == 4 && (a.addr - p.base) % 4 == 0

/-- The block's answer on the bus in this cycle (log 2). -/
def answer (r : Response) (s : State) : State := { s with response := r }

/-- The host's next action is taken; `rest` is what remains (log 2). -/
def dequeue (rest : List HostOp) (s : State) : State := { s with inputs := rest }

/-- The effect of one bus access on the block. Outside the aperture the block does not decode it and
nothing happens in the block (20_memory.md R64; log 7). Inside, an access that is not a whole aligned
word is a fault of the host's step with no effect (R52, 60_exceptions.md R198; log 8). -/
def access (a : Access) (s : State) : Host.Outcome State Fault Refusal :=
  if inAperture s.params a.addr then
    if wordAligned s.params a then
      match a.op with
      | .read => .next (answer (.data (readOffset s (a.addr - s.params.base))) s)
      | .write v => .next (answer .ack (writeOffset (a.addr - s.params.base) v s))
    else .fault .busError
  else .next (answer .none s)

/-- One cycle passes for the command in flight, if there is one (10_state.md R32). -/
def tick (s : State) : State := { s with inflight := s.inflight.map fun k => k - 1 }

/-- The reset input: every piece of state takes its reset value, a command in flight is aborted
without a record (70_reset_and_hazards.md R210, R211). What the host side does afterwards is the
host's. -/
def applyReset (rest : List HostOp) (s : State) : State := State.resetWith s.params rest

/-- One poll of the loop `loop: rd STATUS -> s; if s[0] = 1 goto loop` (30_encoding.md R83): the poll
stays the host's next action while the bit reads 1. -/
def poll (rest : List HostOp) (s : State) : State :=
  { s with
    inputs := if s.statusWord.getLsbD 0 then s.inputs else rest
    response := .data s.statusWord }

/-- The reset input is asserted in this cycle (70_reset_and_hazards.md R210). -/
def inReset (s : State) : Bool :=
  match s.inputs with
  | .reset :: _ => true
  | _ => false

/-- The engine completes its command now: the completion is due, and the reset input is not asserted,
which would abort it (40_command.md R91, 70_reset_and_hazards.md R211; log 4, log 10). -/
def completesNow (s : State) : Bool := s.inflight == some 0 && !inReset s

/-- One cycle of the bus in which no command completes: a cycle passes for the command in flight, and
the host's next action, if it has one, takes full effect (20_memory.md R60). A reset aborts the command
in flight, one that is due too (70_reset_and_hazards.md R211). A host that has nothing pending is
idle. -/
def busCycle (s : State) : Host.Outcome State Fault Refusal :=
  match s.inputs with
  | [] => .next (answer .none (tick s))
  | .idle :: rest => .next (answer .none (dequeue rest (tick s)))
  | .reset :: rest => .next (applyReset rest s)
  | .access a :: rest => access a (dequeue rest (tick s))
  | .wait :: rest => .next (poll rest (tick s))

end Sys2Proof.Machine
end

