-- ==== Sys2Proof/Machine/Bitfield.lean ====
section
/-! DEFINITION. The bit-field unit: FEXT, FINS, VBITS, FFBIT (41_bitfield.md R100-R106). Each command
is a function of its operands (40_command.md R97) and a completion with its result. -/

namespace Sys2Proof.Machine

/-- The field taken out of a register value, for a mask that is not 0 (41_bitfield.md R101). -/
def extractField (byte mask : Byte) : Byte := (byte >>> lowest mask) &&& ones (width mask)

/-- The register value with the field value `val` packed into the span, for a mask that is not 0
(41_bitfield.md R102). -/
def insertField (byte mask : Byte) (val : Nat) : Byte :=
  let fv : Byte := BitVec.ofNat 8 (val % 2 ^ width mask)
  (byte &&& ~~~(span mask)) ||| ((fv <<< lowest mask) &&& span mask)

/-- FEXT (41_bitfield.md R101). -/
def fextOp (a b : Word) : OpResult :=
  let byte := byteOperand a
  let mask := maskOperand b
  if mask = 0 then { res0 := some 0, flags := { empty := true } }
  else { res0 := some (zext32 (extractField byte mask)), flags := { ncontig := !contig mask } }

/-- FINS (41_bitfield.md R102). With an empty mask VOVF is not evaluated. -/
def finsOp (a b c : Word) : OpResult :=
  let byte := byteOperand a
  let mask := maskOperand b
  if mask = 0 then { res0 := some (zext32 byte), flags := { empty := true } }
  else
    { res0 := some (zext32 (insertField byte mask c.toNat))
      flags := { vovf := decide (2 ^ width mask ≤ c.toNat), ncontig := !contig mask } }

/-- The field masks of a radio register, in definition order (10_state.md R29; log 11). -/
def fieldsOf (cat : Catalog) (addr : Word) : List Byte := cat.getD addr.toNat []

/-- The address is outside the catalog, above 46; read whole, all 32 bits (41_bitfield.md R103). -/
def badAddr (addr : Word) : Bool := decide (46 < addr.toNat)

/-- The bit index is above 7; read whole (41_bitfield.md R104). -/
def badBit (bit : Word) : Bool := decide (7 < bit.toNat)

/-- VBITS (41_bitfield.md R103): the union of the register's field masks. -/
def vbitsOp (cat : Catalog) (a : Word) : OpResult :=
  if badAddr a then { res0 := some 0, flags := { badaddr := true } }
  else { res0 := some (zext32 ((fieldsOf cat a).foldl (fun v m => v ||| m) 0)) }

/-- FFBIT (41_bitfield.md R104): the first field, in definition order, that holds the bit. -/
def ffbitOp (cat : Catalog) (a b : Word) : OpResult :=
  let found : Word :=
    if badAddr a || badBit b then 0
    else
      match (fieldsOf cat a).findIdx? (fun m => m.getLsbD b.toNat) with
      | some k => foundWord k
      | none => 0
  { res0 := some found, flags := { badaddr := badAddr a, badbit := badBit b } }

/-- FEXT (41_bitfield.md R101). -/
def execFext (s : State) : Host.Outcome State Fault Refusal :=
  .next (complete (fextOp s.snapA s.snapB) s)

/-- FINS (41_bitfield.md R102). -/
def execFins (s : State) : Host.Outcome State Fault Refusal :=
  .next (complete (finsOp s.snapA s.snapB s.snapC) s)

/-- VBITS (41_bitfield.md R103). -/
def execVbits (s : State) : Host.Outcome State Fault Refusal :=
  .next (complete (vbitsOp s.params.catalog s.snapA) s)

/-- FFBIT (41_bitfield.md R104). -/
def execFfbit (s : State) : Host.Outcome State Fault Refusal :=
  .next (complete (ffbitOp s.params.catalog s.snapA s.snapB) s)

end Sys2Proof.Machine
end

