-- ==== Sys2Proof/Machine/Command.lean ====
section
/-! DEFINITION. NOP and the illegal command (40_command.md R93, R94). -/

namespace Sys2Proof.Machine

/-- NOP: no result, no flag; the completion itself is all it does (40_command.md R94). -/
def execNop (s : State) : Host.Outcome State Fault Refusal := .next (complete {} s)

/-- The completion of an illegal word: ILLEGAL, no operand read, no result written
(40_command.md R93). -/
def execIllegal (s : State) : Host.Outcome State Fault Refusal :=
  .next (complete { flags := { illegal := true } } s)

end Sys2Proof.Machine
end

