-- ==== Sys2Proof/Machine/Quantizer.lean ====
section
/-! DEFINITION. The quantizer unit: DRENC, DRDEC, DVENC, DVDEC (42_quantizer.md R130-R140). `f` is
`F_XOSC_HZ`; quantities are U32m; all arithmetic is exact. -/

namespace Sys2Proof.Machine

/-- RATE_MIN, 0.6 kbps in U32m (42_quantizer.md R130). -/
def rateMin : Nat := 600000

/-- RATE_MAX, 500 kbps in U32m (42_quantizer.md R130). -/
def rateMax : Nat := 500000000

/-- DEV_MIN, 1.5 kHz in U32m (42_quantizer.md R130). -/
def devMin : Nat := 1500000

/-- DEV_MAX, 380 kHz in U32m (42_quantizer.md R130). -/
def devMax : Nat := 380000000

/-- Outside an inclusive domain: what raises DOM (42_quantizer.md R138). -/
def outside (lo hi v : Nat) : Bool := decide (v < lo ∨ hi < v)

/-- `2^28 · rate(E, M)` in U32m, exact (42_quantizer.md R130). -/
def rateScaled (f e m : Nat) : Nat := 1000 * f * (256 + m) * 2 ^ e

/-- `2^17 · dev(E, M)` in U32m, exact (42_quantizer.md R130). -/
def devScaled (f e m : Nat) : Nat := 1000 * f * (8 + m) * 2 ^ e

/-- rate(E, M) rounded to a U32m (42_quantizer.md R131, R133). -/
def rateU32m (f e m : Nat) : Nat := rhu (rateScaled f e m) (2 ^ 28)

/-- dev(E, M) rounded to a U32m (42_quantizer.md R134, R135). -/
def devU32m (f e m : Nat) : Nat := rhu (devScaled f e m) (2 ^ 17)

/-- A candidate of a search with its scaled error. -/
structure Candidate where
  e : Nat
  m : Nat
  err : Nat
  deriving DecidableEq, Repr

/-- Keep the best candidate so far; the comparison is strict, so a tie keeps the earlier one
(42_quantizer.md R131, R134). -/
def better (best : Option Candidate) (c : Candidate) : Option Candidate :=
  match best with
  | none => some c
  | some b => if c.err < b.err then some c else some b

/-- The candidate exponent `e` offers for the rate `r`: `M = rhu(R · 2^(28-E), 1000 · F) - 256` if it
lies in 0..255, that is if the rounded quotient lies in 256..511 (42_quantizer.md R131). -/
def rateCandidate (f r e : Nat) : Option Candidate :=
  let q := rhu (r * 2 ^ (28 - e)) (1000 * f)
  if 256 ≤ q ∧ q ≤ 511 then
    some { e := e, m := q - 256, err := absDiff (rateScaled f e (q - 256)) (r * 2 ^ 28) }
  else none

/-- The search over E = 0..15, ascending (42_quantizer.md R131). -/
def rateSearch (f r : Nat) : Option Candidate :=
  (List.range 16).foldl
    (fun best e =>
      match rateCandidate f r e with
      | some c => better best c
      | none => best)
    none

/-- The candidate (E, M) for the deviation `dv` (42_quantizer.md R134). -/
def devCandidate (f dv e m : Nat) : Candidate :=
  { e := e, m := m, err := absDiff (devScaled f e m) (dv * 2 ^ 17) }

/-- The search over E = 0..7, outer, and M = 0..7, inner (42_quantizer.md R134). It always has a
result: all 64 candidates are valid. -/
def devSearch (f dv : Nat) : Option Candidate :=
  (List.range 8).foldl
    (fun best e => (List.range 8).foldl (fun best m => better best (devCandidate f dv e m)) best)
    none

/-- DRENC (42_quantizer.md R131, R132, R138). -/
def drencOp (f : Nat) (a : Word) : OpResult :=
  let dom := outside rateMin rateMax a.toNat
  match rateSearch f a.toNat with
  | none => { res0 := some 0, res1 := some 0, flags := { nocand := true, dom := dom } }
  | some c =>
    { res0 := some (drwWord c.e c.m)
      res1 := some (BitVec.ofNat 32 (rateU32m f c.e c.m))
      flags := { dom := dom } }

/-- DRDEC (42_quantizer.md R133). -/
def drdecOp (f : Nat) (a : Word) : OpResult :=
  { res0 := some (BitVec.ofNat 32 (rateU32m f (drwE a) (drwM a))) }

/-- DVENC (42_quantizer.md R134, R138). -/
def dvencOp (f : Nat) (a : Word) : OpResult :=
  let c := (devSearch f a.toNat).getD { e := 0, m := 0, err := 0 }
  { res0 := some (devWord c.e c.m)
    res1 := some (BitVec.ofNat 32 (devU32m f c.e c.m))
    flags := { dom := outside devMin devMax a.toNat } }

/-- DVDEC (42_quantizer.md R135). -/
def dvdecOp (f : Nat) (a : Word) : OpResult :=
  { res0 := some (BitVec.ofNat 32 (devU32m f (devE (byteOperand a)) (devM (byteOperand a)))) }

/-- DRENC (42_quantizer.md R131). -/
def execDrenc (s : State) : Host.Outcome State Fault Refusal :=
  .next (complete (drencOp s.params.fXosc s.snapA) s)

/-- DRDEC (42_quantizer.md R133). -/
def execDrdec (s : State) : Host.Outcome State Fault Refusal :=
  .next (complete (drdecOp s.params.fXosc s.snapA) s)

/-- DVENC (42_quantizer.md R134). -/
def execDvenc (s : State) : Host.Outcome State Fault Refusal :=
  .next (complete (dvencOp s.params.fXosc s.snapA) s)

/-- DVDEC (42_quantizer.md R135). -/
def execDvdec (s : State) : Host.Outcome State Fault Refusal :=
  .next (complete (dvdecOp s.params.fXosc s.snapA) s)

end Sys2Proof.Machine
end

