-- ==== Sys2Proof/Machine/Validator.lean ====
section
/-! DEFINITION. The validator unit: VALID (43_validator.md R160-R168). Every threshold is compared as
an exact rational. -/

namespace Sys2Proof.Machine

/-- The modulation classes (43_validator.md R160). -/
inductive ModClass where
  /-- On/off-keyed. -/
  | ook
  /-- Four-level. -/
  | four
  /-- Two-level, and every code the source does not name. -/
  | two
  deriving DecidableEq, Repr

/-- The class of a modulation code: 3 is OOK, 4 is FOUR, every other code TWO (43_validator.md R160). -/
def modClass (code : BitVec 3) : ModClass :=
  match code.toNat with
  | 3 => .ook
  | 4 => .four
  | _ => .two

/-- The severity of a warning (43_validator.md R161). -/
inductive Severity where
  | info | warning | error
  deriving DecidableEq, Repr

/-- The severity codes of MAXSEV (30_encoding.md R81). -/
def Severity.code : Severity → Nat
  | .info => 1
  | .warning => 2
  | .error => 3

/-- The quantity a warning is about (43_validator.md R161). -/
inductive WarnField where
  | bandwidth | deviation
  deriving DecidableEq, Repr

/-- The nine warnings, W1..W9 (43_validator.md R161). -/
inductive Warning where
  | ookBwLow | idxVeryLow | idxLow | idxWideband | bwBelow2xDev | bwBelow6xDev | bwBelowCarson
  | bwExcess | idx4LevelLow
  deriving DecidableEq, Repr

/-- The number k of a warning (43_validator.md R161). -/
def Warning.number : Warning → Nat
  | .ookBwLow => 1
  | .idxVeryLow => 2
  | .idxLow => 3
  | .idxWideband => 4
  | .bwBelow2xDev => 5
  | .bwBelow6xDev => 6
  | .bwBelowCarson => 7
  | .bwExcess => 8
  | .idx4LevelLow => 9

/-- The severity of each warning (43_validator.md R161). -/
def Warning.severity : Warning → Severity
  | .ookBwLow => .warning
  | .idxVeryLow => .warning
  | .idxLow => .info
  | .idxWideband => .info
  | .bwBelow2xDev => .error
  | .bwBelow6xDev => .error
  | .bwBelowCarson => .warning
  | .bwExcess => .info
  | .idx4LevelLow => .warning

/-- The field of each warning (43_validator.md R161). -/
def Warning.field : Warning → WarnField
  | .ookBwLow => .bandwidth
  | .idxVeryLow => .deviation
  | .idxLow => .deviation
  | .idxWideband => .deviation
  | .bwBelow2xDev => .bandwidth
  | .bwBelow6xDev => .bandwidth
  | .bwBelowCarson => .bandwidth
  | .bwExcess => .bandwidth
  | .idx4LevelLow => .deviation

/-- An exact rational that is not negative, as numerator and denominator (00_scope.md R12). -/
structure Ratio where
  num : Nat
  den : Nat
  deriving DecidableEq, Repr

/-- `a < b` of exact rationals with positive denominators. -/
def Ratio.lt (a b : Ratio) : Bool := decide (a.num * b.den < b.num * a.den)

/-- The exact modulation index outside OOK: 0 for a data rate of 0, else 2·DEV / RATE
(43_validator.md R162, R168). -/
def modIndex (dev rate : Nat) : Ratio :=
  if rate = 0 then { num := 0, den := 1 } else { num := 2 * dev, den := rate }

/-- The exact suggested bandwidth (43_validator.md R162, R164). -/
def suggested (cls : ModClass) (dev rate : Nat) : Nat :=
  match cls with
  | .ook => 2 * rate
  | .four => 6 * dev + rate
  | .two => 2 * dev + rate

/-- W2, W3 or W4: the thresholds 3/10, 1/2 and 2 of the index (43_validator.md R162). -/
def indexWarnings (idx : Ratio) : List Warning :=
  if idx.lt { num := 3, den := 10 } then [.idxVeryLow]
  else if idx.lt { num := 1, den := 2 } then [.idxLow]
  else if Ratio.lt { num := 2, den := 1 } idx then [.idxWideband]
  else []

/-- W5 or W6: the bandwidth is below the minimum tolerable one (43_validator.md R162). -/
def minimumWarnings (four : Bool) (bw dev : Nat) : List Warning :=
  if bw < (if four then 6 * dev else 2 * dev) then
    [if four then .bwBelow6xDev else .bwBelow2xDev]
  else []

/-- W7 or W8: against Carson's rule, below 80 % or above 3 times the suggestion
(43_validator.md R162). -/
def carsonWarnings (bw sugg : Nat) : List Warning :=
  if 5 * bw < 4 * sugg then [.bwBelowCarson]
  else if 3 * sugg < bw then [.bwExcess]
  else []

/-- W9: the index of a four-level modulation is below 4/5 (43_validator.md R162). -/
def fourLevelWarnings (four : Bool) (idx : Ratio) : List Warning :=
  if four && idx.lt { num := 4, den := 5 } then [.idx4LevelLow] else []

/-- The ordered warning list (43_validator.md R162; its set bits in ascending k are R165's list). -/
def warnings (cls : ModClass) (bw dev rate : Nat) : List Warning :=
  match cls with
  | .ook => if bw < suggested .ook dev rate then [.ookBwLow] else []
  | .four =>
    indexWarnings (modIndex dev rate) ++ minimumWarnings true bw dev ++
      carsonWarnings bw (suggested .four dev rate) ++ fourLevelWarnings true (modIndex dev rate)
  | .two =>
    indexWarnings (modIndex dev rate) ++ minimumWarnings false bw dev ++
      carsonWarnings bw (suggested .two dev rate) ++ fourLevelWarnings false (modIndex dev rate)

/-- WMAP: bit k-1 for warning Wk (30_encoding.md R81). -/
def warnMap (ws : List Warning) : Nat := ws.foldl (fun m w => m ||| 1 <<< (w.number - 1)) 0

/-- MAXSEV: the highest severity code emitted, 0 if none (43_validator.md R165). -/
def maxSeverity (ws : List Warning) : Nat := ws.foldl (fun m w => max m w.severity.code) 0

/-- VALID: no emitted warning has severity error (43_validator.md R165). -/
def isValid (ws : List Warning) : Bool := ws.all fun w => w.severity != .error

/-- The result word (43_validator.md R165). -/
def resultWord (ws : List Warning) : Word :=
  validWord (maxSeverity ws) (isValid ws).toNat ws.length (warnMap ws)

/-- The index as reported, before saturation: 0 if the exact index is 0, else UQ16.16 rounded half up
(43_validator.md R163). -/
def reportedIndex (cls : ModClass) (dev rate : Nat) : Nat :=
  match cls with
  | .ook => 0
  | .four | .two => if rate = 0 ∨ dev = 0 then 0 else rhu (2 * dev * 2 ^ 16) rate

/-- VALID (43_validator.md R162-R165). -/
def validOp (a b c d : Word) : OpResult :=
  let bw := a.toNat
  let dev := b.toNat
  let rate := c.toNat
  let cls := modClass (modOperand d)
  let idx := reportedIndex cls dev rate
  let sugg := suggested cls dev rate
  { res0 := some (sat32 idx)
    res1 := some (sat32 sugg)
    res2 := some (resultWord (warnings cls bw dev rate))
    flags := { sat := saturates idx || saturates sugg } }

/-- VALID (43_validator.md R162). -/
def execValid (s : State) : Host.Outcome State Fault Refusal :=
  .next (complete (validOp s.snapA s.snapB s.snapC s.snapD) s)

end Sys2Proof.Machine
end

