-- ==== Sys2Proof/Machine/Dispatch.lean ====
section
/-! DEFINITION. The meaning of each command: its completion (40_command.md R91), one arm a row of the
opcode table (30_encoding.md R71). -/

namespace Sys2Proof.Machine

def exec (i : Instr) (s : State) : Host.Outcome State Fault Refusal :=
  match i with
  | .nop => Sys2Proof.Machine.execNop s
  | .fext => Sys2Proof.Machine.execFext s
  | .fins => Sys2Proof.Machine.execFins s
  | .vbits => Sys2Proof.Machine.execVbits s
  | .ffbit => Sys2Proof.Machine.execFfbit s
  | .drenc => Sys2Proof.Machine.execDrenc s
  | .drdec => Sys2Proof.Machine.execDrdec s
  | .dvenc => Sys2Proof.Machine.execDvenc s
  | .dvdec => Sys2Proof.Machine.execDvdec s
  | .valid => Sys2Proof.Machine.execValid s

end Sys2Proof.Machine
end

