-- ==== Sys2Proof/Machine/Step.lean ====
section
/-! DEFINITION. One step of the machine. The engine moves when the command in flight is due and the
reset input is not asserted: it takes the command word in CMD and completes it (40_command.md R91,
10_state.md R35). Otherwise one cycle of the bus passes (log 4). So a completion falls between two
accesses, and before the access of the same cycle (20_memory.md R61, 60_exceptions.md R194), and a
reset aborts a command up to its last cycle (70_reset_and_hazards.md R211). -/

namespace Sys2Proof.Machine

/-- The engine's completion step: the rule of the opcode in CMD, or R93 for an illegal word
(40_command.md R91). -/
def runCommand (s : State) : Host.Outcome State Fault Refusal :=
  match decode s.cmd with
  | .ok i => exec i s
  | .error _ => execIllegal s

/-- One step. -/
def step (s : State) : Host.Outcome State Fault Refusal :=
  if completesNow s then runCommand s else busCycle s

/-- `s` with the command word accepted (40_command.md R90) and its completion due, so that the very
next step runs it. The block fetches nothing (10_state.md R35): this stands for the host's CMD write
and the latency (log 3). A reset that is the host's next action would abort the command: it is put off
by a cycle. -/
def State.withFetchWord (s : State) (nbits w : Nat) : State :=
  { accept (tableWord nbits w) s with
    inflight := some 0
    inputs := if inReset s then .idle :: s.inputs else s.inputs }

end Sys2Proof.Machine
end

