-- ==== Sys2Proof/Machine/HostSyntax.lean ====
section
/-! DEFINITION. The host statements and pseudo-instructions the spec's programs are written in
(30_encoding.md R83, R84), expanded into bus accesses. The name a `rd` binds, labels and branches are
the host's own and not specified (R83; log 15). -/

namespace Sys2Proof.Machine

/-- A host statement (30_encoding.md R83) or the pseudo-instruction of a command with the operands it
reads (R84). -/
inductive Stmt where
  | wr (r : BusReg) (v : Word)
  | rd (r : BusReg)
  | wait
  | ack
  | nop
  | fext (byte mask : Word)
  | fins (byte mask val : Word)
  | vbits (addr : Word)
  | ffbit (addr bit : Word)
  | drenc (rate : Word)
  | drdec (e m : Word)
  | dvenc (dev : Word)
  | dvdec (byte : Word)
  | valid (bw dev rate mod : Word)
  deriving DecidableEq, Repr

/-- `wr REG, imm32` is `MemWrite(off(REG), 4, imm32)` at BASE (30_encoding.md R83, 00_scope.md R15). -/
def wr (p : Params) (r : BusReg) (v : Word) : HostOp :=
  .access { addr := p.base + r.offset, bytes := 4, op := .write v }

/-- `rd REG` is `MemRead(off(REG), 4)` at BASE (30_encoding.md R83, 00_scope.md R15). -/
def rd (p : Params) (r : BusReg) : HostOp :=
  .access { addr := p.base + r.offset, bytes := 4, op := .read }

/-- The bus accesses a statement stands for (30_encoding.md R83, R84). A pseudo-instruction writes the
operands its command reads, then CMD, and does not wait. -/
def Stmt.expand (p : Params) : Stmt → List HostOp
  | .wr r v => [Sys2Proof.Machine.wr p r v]
  | .rd r => [Sys2Proof.Machine.rd p r]
  | .wait => [HostOp.wait]
  | .ack => [Sys2Proof.Machine.wr p .status 2]
  | .nop => [Sys2Proof.Machine.wr p .cmd (encode .nop)]
  | .fext byte mask =>
    [Sys2Proof.Machine.wr p .opa byte, Sys2Proof.Machine.wr p .opb mask,
      Sys2Proof.Machine.wr p .cmd (encode .fext)]
  | .fins byte mask val =>
    [Sys2Proof.Machine.wr p .opa byte, Sys2Proof.Machine.wr p .opb mask,
      Sys2Proof.Machine.wr p .opc val, Sys2Proof.Machine.wr p .cmd (encode .fins)]
  | .vbits addr => [Sys2Proof.Machine.wr p .opa addr, Sys2Proof.Machine.wr p .cmd (encode .vbits)]
  | .ffbit addr bit =>
    [Sys2Proof.Machine.wr p .opa addr, Sys2Proof.Machine.wr p .opb bit,
      Sys2Proof.Machine.wr p .cmd (encode .ffbit)]
  | .drenc rate => [Sys2Proof.Machine.wr p .opa rate, Sys2Proof.Machine.wr p .cmd (encode .drenc)]
  | .drdec e m =>
    [Sys2Proof.Machine.wr p .opa (m <<< 8 ||| e), Sys2Proof.Machine.wr p .cmd (encode .drdec)]
  | .dvenc dev => [Sys2Proof.Machine.wr p .opa dev, Sys2Proof.Machine.wr p .cmd (encode .dvenc)]
  | .dvdec byte => [Sys2Proof.Machine.wr p .opa byte, Sys2Proof.Machine.wr p .cmd (encode .dvdec)]
  | .valid bw dev rate mod =>
    [Sys2Proof.Machine.wr p .opa bw, Sys2Proof.Machine.wr p .opb dev,
      Sys2Proof.Machine.wr p .opc rate, Sys2Proof.Machine.wr p .opd mod,
      Sys2Proof.Machine.wr p .cmd (encode .valid)]

/-- The bus accesses of a host program, statement by statement (30_encoding.md R83). -/
def expandAll (p : Params) (prog : List Stmt) : List HostOp := prog.flatMap (Stmt.expand p)

end Sys2Proof.Machine
end

