-- ==== Sys2Proof/Safety.lean ====
section
/-! DEFINITION. What a good state is, in the terms claims use: the invariant of the state, and which
inputs a run may meet without stopping. -/

namespace Sys2Proof.Machine

/-- The flags are ones the command that LASTOP names can have raised (60_exceptions.md R190, R191,
R193, R194). -/
structure FlagsExplained (f : Flags) (lastop : Byte) : Prop where
  /-- ILLEGAL excludes every other cause (R193). -/
  illegal_alone : f.illegal = true → f = { illegal := true }
  empty_by : f.empty = true → lastop = 0x01#8 ∨ lastop = 0x02#8
  ncontig_by : f.ncontig = true → lastop = 0x01#8 ∨ lastop = 0x02#8
  vovf_by : f.vovf = true → lastop = 0x02#8
  badaddr_by : f.badaddr = true → lastop = 0x03#8 ∨ lastop = 0x04#8
  badbit_by : f.badbit = true → lastop = 0x04#8
  nocand_by : f.nocand = true → lastop = 0x10#8
  dom_by : f.dom = true → lastop = 0x10#8 ∨ lastop = 0x12#8
  sat_by : f.sat = true → lastop = 0x20#8
  /-- An empty mask is neither non-contiguous nor tested for a wide value (41_bitfield.md R101,
  R102). -/
  empty_alone : f.empty = true → f.ncontig = false ∧ f.vovf = false

/-- What the block records with a cause is still in the result registers (60_exceptions.md R190, last
column). -/
structure CausesRecorded (s : State) : Prop where
  badaddr_zero : s.flags.badaddr = true → s.res0 = 0
  badbit_zero : s.flags.badbit = true → s.res0 = 0
  nocand_zero : s.flags.nocand = true → s.res0 = 0 ∧ s.res1 = 0
  sat_ones : s.flags.sat = true → s.res0 = 0xFFFF_FFFF#32 ∨ s.res1 = 0xFFFF_FFFF#32

/-- RES2's reserved bits are 0 (30_encoding.md R81). -/
def Res2ReservedZero (w : Word) : Prop :=
  w.extractLsb' 9 3 = 0 ∧ w.extractLsb' 15 1 = 0 ∧ w.extractLsb' 19 13 = 0

/-- The invariant of the machine. -/
structure State.Inv (s : State) : Prop where
  /-- The block was built with legal parameters (70_reset_and_hazards.md R213). -/
  built : Params.wf s.params = true
  /-- While BUSY = 1, DONE and the per-command flags are 0 (40_command.md R90, R91). -/
  busy_clear : s.busy = true → s.done = false ∧ s.flags = {}
  /-- The completion of the command in flight is due within its latency (00_scope.md R7, 10_state.md
  R32). -/
  due_in_time : ∀ k, s.inflight = some k → k < wordLatency s.params.latency s.cmd
  flags_explained : FlagsExplained s.flags s.lastop
  causes_recorded : CausesRecorded s
  res2_reserved : Res2ReservedZero s.res2

/-- `n` steps, stopping at the first fault or refusal. -/
def runSteps : Nat → State → Host.Outcome State Fault Refusal
  | 0, s => .next s
  | n + 1, s =>
    match step s with
    | .next t => runSteps n t
    | .fault r => .fault r
    | .refused r => .refused r

/-- A host action that cannot stop the machine and does not reset it: not a reset, and no access of
the wrong width or alignment inside the aperture (20_memory.md R52). -/
def HostOp.harmless (p : Params) : HostOp → Bool
  | .idle => true
  | .wait => true
  | .reset => false
  | .access a => !inAperture p a.addr || wordAligned p a

end Sys2Proof.Machine
end

