-- ==== Sys2Proof/Certificates/Slice0/Obligations.lean ====
section
/-! DEFINITION. The statements for the provers, from the numbered rules of spec/. The helpers of
`Sys2Proof.Claims` write the rules' formulas again from the spec's words, in plain arithmetic over
Nat and ℚ, so that a statement does not restate a definition of the model. -/

namespace Sys2Proof.Claims

open Sys2Proof.Machine

/-- The completion of 40_command.md R91 of command `i`: named results (`some v`) are written, every
flag of `f` is raised, LASTOP is CMD[7:0], BUSY 0, DONE 1, and EVERYTHING else of the state is as
before (R95 for a result not named, `none`). -/
def CompletesWith (i : Instr) (s : State) (r0 r1 r2 : Option Word) (f : Flags) : Prop :=
  exec i s = .next
    { s with
      res0 := r0.getD s.res0
      res1 := r1.getD s.res1
      res2 := r2.getD s.res2
      flags :=
        { illegal := s.flags.illegal || f.illegal, empty := s.flags.empty || f.empty
          ncontig := s.flags.ncontig || f.ncontig, vovf := s.flags.vovf || f.vovf
          badaddr := s.flags.badaddr || f.badaddr, badbit := s.flags.badbit || f.badbit
          nocand := s.flags.nocand || f.nocand, dom := s.flags.dom || f.dom
          sat := s.flags.sat || f.sat }
      lastop := s.cmd.extractLsb' 0 8
      inflight := none
      done := true }

/-- `lo` and `hi` are the lowest and the highest set bit of the mask (41_bitfield.md R100). -/
def SpanOf (m : Nat) (lo hi : Nat) : Prop :=
  lo ≤ hi ∧ hi < 8 ∧ m.testBit lo = true ∧ m.testBit hi = true ∧
    ∀ k, m.testBit k = true → lo ≤ k ∧ k ≤ hi

/-- The field of bits `lo..hi` of a byte. -/
def fieldOf (byte lo hi : Nat) : Nat := byte / 2 ^ lo % 2 ^ (hi - lo + 1)

/-- The byte with bits `lo..hi` replaced by `v`, an `hi-lo+1`-bit value. -/
def replaced (byte lo hi v : Nat) : Nat :=
  byte % 2 ^ lo + v % 2 ^ (hi - lo + 1) * 2 ^ lo + byte / 2 ^ (hi + 1) * 2 ^ (hi + 1)

/-- The mask has a gap: it is not the run of ones from `lo` to `hi` (41_bitfield.md R100). -/
def hasGap (m lo hi : Nat) : Bool := decide (m ≠ (2 ^ (hi - lo + 1) - 1) * 2 ^ lo)

/-- rate(E, M) in bit/s (42_quantizer.md R130). -/
def rate (f e m : Nat) : ℚ := (256 + m) * 2 ^ e * f / 2 ^ 28

/-- dev(E, M) in Hz (42_quantizer.md R130). -/
def dev (f e m : Nat) : ℚ := f / 2 ^ 17 * (8 + m) * 2 ^ e

/-- The exponent `e` offers the candidate mantissa `m` for the rate `r`: `m = round(...) - 256` and
it lies in 0..255 (42_quantizer.md R131, the round of 00_scope.md R13). -/
def RateCand (f r e m : Nat) : Prop :=
  e < 16 ∧ m < 256 ∧ 256 + m = (2 * (r * 2 ^ (28 - e)) + 1000 * f) / (2 * (1000 * f))

/-- The distance of rate(E, M) from the requested rate `r` (U32m), in bit/s. -/
def rateErr (f r e m : Nat) : ℚ := |rate f e m - r / 1000|

/-- The distance of dev(E, M) from the requested deviation `d` (U32m), in Hz. -/
def devErr (f d e m : Nat) : ℚ := |dev f e m - d / 1000|

/-- rate(E, M) in U32m, rounded half up (00_scope.md R13, 42_quantizer.md R133). -/
def rateMilli (f e m : Nat) : Nat := (2 * (1000 * f * (256 + m) * 2 ^ e) + 2 ^ 28) / (2 * 2 ^ 28)

/-- dev(E, M) in U32m, rounded half up (00_scope.md R13, 42_quantizer.md R135). -/
def devMilli (f e m : Nat) : Nat := (2 * (1000 * f * (8 + m) * 2 ^ e) + 2 ^ 17) / (2 * 2 ^ 17)

/-- Out of the domain 0.6..500 kbps (42_quantizer.md R138). -/
def rateOut (r : Nat) : Bool := decide (r < 600000 ∨ r > 500000000)

/-- Out of the domain 1.5..380 kHz (42_quantizer.md R138). -/
def devOut (d : Nat) : Bool := decide (d < 1500000 ∨ d > 380000000)

/-- The exact modulation index outside OOK (43_validator.md R162). -/
def index (dev rate : Nat) : ℚ := if rate = 0 then 0 else 2 * dev / rate

/-- The exact suggested bandwidth for a modulation code (43_validator.md R160, R164). -/
def suggestion (mod dev rate : Nat) : Nat :=
  if mod = 3 then 2 * rate else if mod = 4 then 6 * dev + rate else 2 * dev + rate

/-- The condition of warning Wk for a modulation code, column "condition (class)" of the table of
43_validator.md R161. -/
def Emitted (mod bw dev rate : Nat) : Nat → Prop
  | 1 => mod = 3 ∧ bw < suggestion mod dev rate
  | 2 => mod ≠ 3 ∧ index dev rate < 3 / 10
  | 3 => mod ≠ 3 ∧ 3 / 10 ≤ index dev rate ∧ index dev rate < 1 / 2
  | 4 => mod ≠ 3 ∧ 2 < index dev rate
  | 5 => mod ≠ 3 ∧ mod ≠ 4 ∧ bw < 2 * dev
  | 6 => mod = 4 ∧ bw < 6 * dev
  | 7 => mod ≠ 3 ∧ (bw : ℚ) < 8 / 10 * suggestion mod dev rate
  | 8 => mod ≠ 3 ∧ bw > 3 * suggestion mod dev rate
  | 9 => mod = 4 ∧ index dev rate < 8 / 10
  | _ => False

/-- The warning Wk is in the result word: bit k-1 of RES2 (30_encoding.md R81). -/
def warned (res2 : Word) (k : Nat) : Bool := res2.getLsbD (k - 1)

/-- The host delivers a 32-bit access to offset `off` of the aperture and then goes on with `rest`. -/
def Delivers (s : State) (off : Nat) (op : BusOp) (rest : List HostOp) : Prop :=
  s.inputs = .access { addr := s.params.base + off, bytes := 4, op := op } :: rest

/-- The completion of the command in flight is due, and the reset input is not asserted, which would
abort it (70_reset_and_hazards.md R211). -/
def Due (s : State) : Prop := s.inflight = some 0 ∧ ∀ rest, s.inputs ≠ .reset :: rest

/-- The modulation index in UQ16.16, rounded half up, before saturation (43_validator.md R163). -/
def indexFixed (mod dev rate : Nat) : Nat :=
  if mod = 3 ∨ rate = 0 ∨ dev = 0 then 0 else (2 * (2 * dev * 2 ^ 16) + rate) / (2 * rate)

/-- The flags are those of the table of 60_exceptions.md R190, columns "raised by" and "condition", for
the word in CMD and the snapshot. -/
structure CausesOf (s : State) (f : Flags) : Prop where
  illegal : f.illegal = true ↔
    (s.cmd.toNat / 2 ^ 8 ≠ 0 ∨ s.cmd.toNat % 2 ^ 8 ∉
      [0x00, 0x01, 0x02, 0x03, 0x04, 0x10, 0x11, 0x12, 0x13, 0x20])
  empty : f.empty = true ↔ (s.cmd = 0x01#32 ∨ s.cmd = 0x02#32) ∧ s.snapB.toNat % 256 = 0
  ncontig : f.ncontig = true ↔ (s.cmd = 0x01#32 ∨ s.cmd = 0x02#32) ∧
    ∃ lo hi, SpanOf (s.snapB.toNat % 256) lo hi ∧ hasGap (s.snapB.toNat % 256) lo hi = true
  vovf : f.vovf = true ↔ s.cmd = 0x02#32 ∧
    ∃ lo hi, SpanOf (s.snapB.toNat % 256) lo hi ∧ s.snapC.toNat ≥ 2 ^ (hi - lo + 1)
  badaddr : f.badaddr = true ↔ (s.cmd = 0x03#32 ∨ s.cmd = 0x04#32) ∧ s.snapA.toNat > 46
  badbit : f.badbit = true ↔ s.cmd = 0x04#32 ∧ s.snapB.toNat > 7
  nocand : f.nocand = true ↔
    s.cmd = 0x10#32 ∧ ¬ ∃ e m, RateCand s.params.fXosc s.snapA.toNat e m
  dom : f.dom = true ↔ s.cmd = 0x10#32 ∧ rateOut s.snapA.toNat = true ∨
    s.cmd = 0x12#32 ∧ devOut s.snapA.toNat = true
  sat : f.sat = true ↔ s.cmd = 0x20#32 ∧
    (indexFixed (s.snapD.toNat % 8) s.snapB.toNat s.snapC.toNat ≥ 2 ^ 32 ∨
      suggestion (s.snapD.toNat % 8) s.snapB.toNat s.snapC.toNat ≥ 2 ^ 32)

/-- The in-flight count after a cycle of the bus. -/
def ticked (s : State) : Option Nat := s.inflight.map (· - 1)

/-- Two snapshots agree on the operand bits that 30_encoding.md R74 lists for the command. -/
def AgreeOnRead (i : Instr) (a b c d a' b' c' d' : Word) : Prop :=
  match i with
  | .nop => True
  | .fext => a.toNat % 2 ^ 8 = a'.toNat % 2 ^ 8 ∧ b.toNat % 2 ^ 8 = b'.toNat % 2 ^ 8
  | .fins => a.toNat % 2 ^ 8 = a'.toNat % 2 ^ 8 ∧ b.toNat % 2 ^ 8 = b'.toNat % 2 ^ 8 ∧ c = c'
  | .vbits => a = a'
  | .ffbit => a = a' ∧ b = b'
  | .drenc => a = a'
  | .drdec =>
    a.toNat % 2 ^ 4 = a'.toNat % 2 ^ 4 ∧ a.toNat / 2 ^ 8 % 2 ^ 8 = a'.toNat / 2 ^ 8 % 2 ^ 8
  | .dvenc => a = a'
  | .dvdec =>
    a.toNat % 2 ^ 3 = a'.toNat % 2 ^ 3 ∧ a.toNat / 2 ^ 4 % 2 ^ 3 = a'.toNat / 2 ^ 4 % 2 ^ 3
  | .valid => a = a' ∧ b = b' ∧ c = c' ∧ d.toNat % 2 ^ 3 = d'.toNat % 2 ^ 3

end Sys2Proof.Claims

open Sys2Proof Sys2Proof.Machine Sys2Proof.Claims

/-! ## Encoding and decoding -/

/-- Words written out from the table of 30_encoding.md R71, one or two of each family, and four of the
illegal space of R72. -/
def Obligations.TableWordsDecodeToTheirCommands : Prop :=
  decode 0x0000_0000#32 = .ok .nop ∧ decode 0x0000_0001#32 = .ok .fext ∧
  decode 0x0000_0002#32 = .ok .fins ∧ decode 0x0000_0004#32 = .ok .ffbit ∧
  decode 0x0000_0010#32 = .ok .drenc ∧ decode 0x0000_0013#32 = .ok .dvdec ∧
  decode 0x0000_0020#32 = .ok .valid ∧
  decode 0x0000_0101#32 = .error .reservedNotZero ∧ decode 0x8000_0020#32 = .error .reservedNotZero ∧
  decode 0x0000_0005#32 = .error .opcodeUndefined ∧ decode 0x0000_00FF#32 = .error .opcodeUndefined

/-- 30_encoding.md R71, R73: every word is one of the ten commands or illegal, and it is a command
iff RSV, bits [31:8], is 0 and OPC, bits [7:0], is in the table; the illegal opcodes are those of
R72. -/
def Obligations.WordIsCommandIffReservedZeroAndOpcodeListed : Prop :=
  ∀ w : Word,
    (∀ i, decode w = .ok i ↔
      w.toNat / 2 ^ 8 = 0 ∧
        w.toNat % 2 ^ 8 =
          (match i with
          | .nop => 0x00 | .fext => 0x01 | .fins => 0x02 | .vbits => 0x03 | .ffbit => 0x04
          | .drenc => 0x10 | .drdec => 0x11 | .dvenc => 0x12 | .dvdec => 0x13 | .valid => 0x20)) ∧
    ((∃ r, decode w = .error r) ↔
      w.toNat / 2 ^ 8 ≠ 0 ∨
        (let o := w.toNat % 2 ^ 8
         (0x05 ≤ o ∧ o ≤ 0x0F) ∨ (0x14 ≤ o ∧ o ≤ 0x1F) ∨ (0x21 ≤ o ∧ o ≤ 0xFF)))

/-- Decode of encode is the command, for every command; and no other word decodes to it. -/
def Obligations.EncodeThenDecodeIsIdentity : Prop :=
  (∀ i, decode (encode i) = .ok i) ∧ ∀ w i, decode w = .ok i → w = encode i

/-- 20_memory.md R53: the decoder on the four byte lanes of a word, lane 0 carrying bits [7:0], reads
what the decoder reads from the word; and a lane carries bits [8k+7 : 8k]. -/
def Obligations.ByteLanesCarryTheWordLittleEndian : Prop :=
  (∀ w : Word,
    decodeLanes (byteLane w 0) (byteLane w 1) (byteLane w 2) (byteLane w 3) = decode w) ∧
  ∀ (s : State) (off k : Nat), k < 4 →
    (readLane s off k).toNat = (readOffset s off).toNat / 2 ^ (8 * k) % 2 ^ 8

/-! ## The step -/

/-- When the command in flight is due, no reset is asserted and CMD decodes to a command, the step is exec
of that command. Otherwise the step is one cycle of the bus: that a step is one completion or one cycle of
the bus is the model's choice (log 4), that a reset comes before the completion is R211's. -/
def Obligations.StepRunsTheCommandThatIsDue : Prop :=
  (∀ (s : State) (i : Instr), Due s → decode s.cmd = .ok i → step s = exec i s) ∧
  ∀ s : State, ¬ Due s → step s = busCycle s

/-- The next step of `withFetchWord` runs the command the decoder reads from the word, with the
operand registers as its snapshot (log 3: the model's own). -/
def Obligations.FetchWordRunsAsTheNextStep : Prop :=
  ∀ (s : State) (nbits w : Nat) (i : Instr), decodeTableWord nbits w = some i →
    step (s.withFetchWord nbits w) = exec i (s.withFetchWord nbits w) ∧
    (s.withFetchWord nbits w).snapA = s.opa ∧ (s.withFetchWord nbits w).snapB = s.opb ∧
    (s.withFetchWord nbits w).snapC = s.opc ∧ (s.withFetchWord nbits w).snapD = s.opd

/-- 40_command.md R97: two due commands with the same word, snapshot and parameters raise the same
flags and write the same results, whatever else the states hold. -/
def Obligations.CompletionDependsOnWordSnapshotAndParametersOnly : Prop :=
  ∀ s s' : State, Due s → Due s' → s.cmd = s'.cmd →
    s.snapA = s'.snapA → s.snapB = s'.snapB → s.snapC = s'.snapC → s.snapD = s'.snapD →
    s.params.fXosc = s'.params.fXosc → s.params.catalog = s'.params.catalog →
    s.flags = {} → s'.flags = {} →
    ∃ t t', step s = .next t ∧ step s' = .next t' ∧ t.flags = t'.flags ∧ t.lastop = t'.lastop ∧
      (t.res0 = t'.res0 ∨ (t.res0 = s.res0 ∧ t'.res0 = s'.res0)) ∧
      (t.res1 = t'.res1 ∨ (t.res1 = s.res1 ∧ t'.res1 = s'.res1)) ∧
      (t.res2 = t'.res2 ∨ (t.res2 = s.res2 ∧ t'.res2 = s'.res2))

/-- 30_encoding.md R85: operand bits outside the fields of R74 never change a result or a flag: with
the snapshot replaced by one that agrees on those fields, the completion is the same but for the
snapshot itself. -/
def Obligations.OperandBitsNotListedAreIgnored : Prop :=
  ∀ (i : Instr) (s : State) (a b c d : Word),
    AgreeOnRead i s.snapA s.snapB s.snapC s.snapD a b c d →
    ∃ t, exec i s = .next t ∧
      exec i { s with snapA := a, snapB := b, snapC := c, snapD := d } =
        .next { t with snapA := a, snapB := b, snapC := c, snapD := d }

/-- 60_exceptions.md R199, R198, R52: no step is ever refused, and the only fault is a bus error,
raised exactly by an access of the wrong width or alignment inside the aperture while no completion
is due. -/
def Obligations.OnlyBadBusAccessesStopTheMachine : Prop :=
  ∀ s : State, (∀ r, step s ≠ .refused r) ∧
    ∀ r, step s = .fault r ↔ r = .busError ∧ s.inflight ≠ some 0 ∧
      ∃ a rest, s.inputs = .access a :: rest ∧
        s.params.base ≤ a.addr ∧ a.addr < s.params.base + 64 ∧
        ¬ (a.bytes = 4 ∧ (a.addr - s.params.base) % 4 = 0)

/-! ## The life cycle of a command -/

/-- 40_command.md R90 (followed where R25's words differ, log 6): a CMD write while BUSY = 0 is accepted,
whatever the word. -/
def Obligations.CmdWriteWhileIdleIsAccepted : Prop :=
  ∀ (s : State) (w : Word) (rest : List HostOp), s.inflight = none →
    Delivers s 0x00 (.write w) rest →
    ∃ k, step s = .next
      { s with
        cmd := w, snapA := s.opa, snapB := s.opb, snapC := s.opc, snapD := s.opd
        done := false
        flags := { illegal := false, empty := false, ncontig := false, vovf := false,
                   badaddr := false, badbit := false, nocand := false, dom := false, sat := false }
        inflight := some k, inputs := rest, response := .ack }

/-- 40_command.md R92: a CMD write while BUSY = 1 has one effect, OVERRUN; the command in flight runs
on. -/
def Obligations.CmdWriteWhileBusyOnlySetsOverrun : Prop :=
  ∀ (s : State) (w : Word) (rest : List HostOp) (k : Nat), s.inflight = some (k + 1) →
    Delivers s 0x00 (.write w) rest →
    step s = .next
      { s with overrun := true, inflight := some k, inputs := rest, response := .ack }

/-- 40_command.md R93, 30_encoding.md R72, 60_exceptions.md R193: an illegal word completes with
ILLEGAL alone raised, LASTOP its bits [7:0], and no result register written. -/
def Obligations.IllegalWordCompletesWithIllegalOnly : Prop :=
  ∀ s : State, Due s →
    (s.cmd.toNat / 2 ^ 8 ≠ 0 ∨ s.cmd.toNat % 2 ^ 8 ∉
      [0x00, 0x01, 0x02, 0x03, 0x04, 0x10, 0x11, 0x12, 0x13, 0x20]) →
    step s = .next
      { s with
        flags := { s.flags with illegal := true }
        lastop := s.cmd.extractLsb' 0 8
        inflight := none
        done := true }

/-- 40_command.md R94: NOP, the word 0, writes no result and raises no flag; its completion leaves DONE
1, BUSY 0, LASTOP 0x00 and everything else as it was. -/
def Obligations.NopOnlyCompletes : Prop :=
  encode .nop = 0x0000_0000#32 ∧ (∀ s : State, CompletesWith .nop s none none none {}) ∧
  ∀ s : State, Due s → s.cmd = 0 →
    step s = .next { s with lastop := 0, inflight := none, done := true }

/-- 40_command.md R95, 30_encoding.md R80: every command answers a next state, which has BUSY 0, DONE
1 and LASTOP = CMD[7:0]; a result register its rule does not name keeps its value; everything but the
results, the flags, LASTOP, BUSY and DONE is unchanged, and no flag is cleared. -/
def Obligations.CompletionKeepsWhatItsRuleDoesNotName : Prop :=
  ∀ (i : Instr) (s : State), ∃ t, exec i s = .next t ∧
    t.inflight = none ∧ t.done = true ∧ t.lastop = s.cmd.extractLsb' 0 8 ∧
    (i = .nop → t.res0 = s.res0) ∧
    (i ≠ .drenc → i ≠ .dvenc → i ≠ .valid → t.res1 = s.res1) ∧
    (i ≠ .valid → t.res2 = s.res2) ∧
    t = { s with
          res0 := t.res0, res1 := t.res1, res2 := t.res2, flags := t.flags, lastop := t.lastop
          inflight := t.inflight, done := t.done } ∧
    t.flags = s.flags.raise t.flags

/-- 60_exceptions.md R194, R190: the causes a legal command can raise, from cleared flags: at most
one, or {VOVF, NCONTIG} by FINS, {BADADDR, BADBIT} by FFBIT, {NOCAND, DOM} by DRENC; each only by the
commands its row names, and ILLEGAL by none. -/
def Obligations.CausesOfEachCommand : Prop :=
  ∀ (i : Instr) (s : State), s.flags = {} → ∃ t, exec i s = .next t ∧
    (i = .nop ∨ i = .drdec ∨ i = .dvdec → t.flags = {}) ∧
    (i = .fext → t.flags ∈ [{}, { empty := true }, { ncontig := true }]) ∧
    (i = .fins → t.flags ∈ [{}, { empty := true }, { vovf := true }, { ncontig := true },
      { vovf := true, ncontig := true }]) ∧
    (i = .vbits → t.flags ∈ [{}, { badaddr := true }]) ∧
    (i = .ffbit → t.flags ∈ [{}, { badaddr := true }, { badbit := true },
      { badaddr := true, badbit := true }]) ∧
    (i = .drenc → t.flags ∈ [{}, { dom := true }, { nocand := true },
      { nocand := true, dom := true }]) ∧
    (i = .dvenc → t.flags ∈ [{}, { dom := true }]) ∧
    (i = .valid → t.flags ∈ [{}, { sat := true }])

/-- 60_exceptions.md R194, 20_memory.md R61: when a CMD write meets the completion of the running
command, the completion comes first and the write is accepted as a new command without OVERRUN. -/
def Obligations.CompletionComesBeforeAWriteOfTheSameCycle : Prop :=
  ∀ (s : State) (w : Word) (rest : List HostOp), s.inflight = some 0 →
    Delivers s 0x00 (.write w) rest →
    ∃ t u, step s = .next t ∧ t.inflight = none ∧ t.done = true ∧ t.inputs = s.inputs ∧
      step t = .next u ∧ u.cmd = w ∧ u.busy = true ∧ u.overrun = s.overrun ∧
      u.res0 = t.res0 ∧ u.res1 = t.res1 ∧ u.res2 = t.res2 ∧ u.lastop = t.lastop

/-- 70_reset_and_hazards.md R219: an accepted command completes, in `k + 1` steps for a count of `k`
cycles, whatever the host does meanwhile short of a reset or a failing access. -/
def Obligations.AcceptedCommandCompletes : Prop :=
  ∀ (s : State) (k : Nat), s.inflight = some k →
    (∀ op ∈ s.inputs, HostOp.harmless s.params op = true) →
    ∃ t, runSteps (k + 1) s = .next t ∧ t.inflight = none ∧
      t.done = true ∧ t.lastop = opcField s.cmd ∧ t.cmd = s.cmd

/-- 40_command.md R96, 70_reset_and_hazards.md R216: a write to OPA..OPD while a command runs is
stored, and changes neither the snapshot nor the command. -/
def Obligations.OperandWriteWhileBusyLeavesTheRunningCommand : Prop :=
  ∀ (s : State) (v : Word) (rest : List HostOp) (k : Nat), s.inflight = some (k + 1) →
    (Delivers s 0x10 (.write v) rest → step s = .next
      { s with opa := v, inflight := some k, inputs := rest, response := .ack }) ∧
    (Delivers s 0x14 (.write v) rest → step s = .next
      { s with opb := v, inflight := some k, inputs := rest, response := .ack }) ∧
    (Delivers s 0x18 (.write v) rest → step s = .next
      { s with opc := v, inflight := some k, inputs := rest, response := .ack }) ∧
    (Delivers s 0x1C (.write v) rest → step s = .next
      { s with opd := v, inflight := some k, inputs := rest, response := .ack })

/-! ## The bit-field unit -/

/-- 41_bitfield.md R101, R100: FEXT. For a mask with lowest bit `lo` and highest bit `hi`, RES0 is the
field of bits lo..hi of the register value, NCONTIG is raised iff the mask has a gap; the empty mask
gives 0 and EMPTY; and every other mask has such bits. Everything else is unchanged. -/
def Obligations.FextExtractsTheSpanOfTheMask : Prop :=
  encode .fext = 0x0000_0001#32 ∧
  ∀ (s : State) (byte mask : Nat), byte = s.snapA.toNat % 256 → mask = s.snapB.toNat % 256 →
    (mask = 0 → CompletesWith .fext s (some 0) none none { empty := true }) ∧
    (mask ≠ 0 → ∃ lo hi, SpanOf mask lo hi) ∧
    ∀ lo hi, SpanOf mask lo hi →
      CompletesWith .fext s (some (BitVec.ofNat 32 (fieldOf byte lo hi))) none none
        { ncontig := hasGap mask lo hi }

/-- 41_bitfield.md R102, R100: FINS. For a mask with lowest bit `lo` and highest bit `hi`, RES0 is the
register value with bits lo..hi replaced by the value modulo 2^width; VOVF iff the value has more
bits, NCONTIG iff the mask has a gap; the empty mask gives the register value and EMPTY alone.
Everything else is unchanged. -/
def Obligations.FinsReplacesTheSpanOfTheMask : Prop :=
  encode .fins = 0x0000_0002#32 ∧
  ∀ (s : State) (byte mask val : Nat), byte = s.snapA.toNat % 256 → mask = s.snapB.toNat % 256 →
    val = s.snapC.toNat →
    (mask = 0 →
      CompletesWith .fins s (some (BitVec.ofNat 32 byte)) none none { empty := true }) ∧
    (mask ≠ 0 → ∃ lo hi, SpanOf mask lo hi) ∧
    ∀ lo hi, SpanOf mask lo hi →
      CompletesWith .fins s (some (BitVec.ofNat 32 (replaced byte lo hi val))) none none
        { vovf := decide (val ≥ 2 ^ (hi - lo + 1)), ncontig := hasGap mask lo hi }

/-- 41_bitfield.md R103: VBITS. An address above 46, read whole, gives 0 and BADADDR; otherwise bit k
of RES0 is set iff some field of the register holds it. Everything else is unchanged. -/
def Obligations.VbitsIsTheUnionOfTheFields : Prop :=
  encode .vbits = 0x0000_0003#32 ∧
  ∀ s : State, Catalog.wf s.params.catalog = true →
    (s.snapA.toNat > 46 → CompletesWith .vbits s (some 0) none none { badaddr := true }) ∧
    (s.snapA.toNat ≤ 46 → ∃ fields v, s.params.catalog[s.snapA.toNat]? = some fields ∧
      CompletesWith .vbits s (some v) none none {} ∧
      ∀ k, v.getLsbD k = true ↔ ∃ m ∈ fields, m.getLsbD k = true)

/-- 41_bitfield.md R104, 30_encoding.md R82: FFBIT. BADADDR iff the address is above 46, BADBIT iff
the bit is above 7, RES0 = 0 with either; otherwise FOUND and the number of the first field that holds
the bit, or 0 if none does. Everything else is unchanged. -/
def Obligations.FfbitFindsTheFirstFieldWithTheBit : Prop :=
  encode .ffbit = 0x0000_0004#32 ∧
  ∀ (s : State) (addr bit : Nat), Catalog.wf s.params.catalog = true →
    addr = s.snapA.toNat → bit = s.snapB.toNat →
    (addr > 46 ∨ bit > 7 → CompletesWith .ffbit s (some 0) none none
      { badaddr := decide (addr > 46), badbit := decide (bit > 7) }) ∧
    (addr ≤ 46 → bit ≤ 7 → ∃ fields, s.params.catalog[addr]? = some fields ∧
      ((∀ m ∈ fields, m.getLsbD bit = false) → CompletesWith .ffbit s (some 0) none none {}) ∧
      ∀ (k : Nat) (m : Byte), fields[k]? = some m → m.getLsbD bit = true →
        (∀ j m', j < k → fields[j]? = some m' → m'.getLsbD bit = false) →
        k < 8 ∧ CompletesWith .ffbit s (some (BitVec.ofNat 32 (256 + k))) none none {})

/-- 41_bitfield.md R105: FEXT of what FINS packed is the value, for every mask that is not empty,
every byte and every value that fits. -/
def Obligations.FextOfFinsIsTheValue : Prop :=
  ∀ (s t : State) (lo hi : Nat), SpanOf (s.snapB.toNat % 256) lo hi →
    s.snapC.toNat < 2 ^ (hi - lo + 1) → exec .fins s = .next t →
    ∃ u, exec .fext { t with snapA := t.res0 } = .next u ∧ u.res0 = s.snapC

/-- 41_bitfield.md R106: FINS agrees with the byte on every bit outside the span, and packing back
what was extracted changes nothing. -/
def Obligations.FinsKeepsBitsOutsideTheSpan : Prop :=
  ∀ (s : State) (lo hi : Nat), SpanOf (s.snapB.toNat % 256) lo hi →
    (∃ t, exec .fins s = .next t ∧
      ∀ k, k < 8 → k < lo ∨ hi < k → t.res0.getLsbD k = s.snapA.getLsbD k) ∧
    ∀ u, exec .fext s = .next u →
      ∃ t, exec .fins { u with snapC := u.res0 } = .next t ∧ t.res0.toNat = s.snapA.toNat % 256

/-! ## The quantizer unit -/

/-- 42_quantizer.md R131, R138: DRENC. If some exponent offers a candidate, RES0 is the DRW of the
candidate with the least error, the smallest exponent among equals, and RES1 its rate; otherwise RES0
= RES1 = 0 with NOCAND. DOM iff the request is outside the domain. Everything else is unchanged. -/
def Obligations.DrencPicksTheBestCandidate : Prop :=
  encode .drenc = 0x0000_0010#32 ∧
  ∀ (s : State) (f r : Nat), Params.wf s.params = true → f = s.params.fXosc → r = s.snapA.toNat →
    ((∃ e m, RateCand f r e m) → ∃ e m, RateCand f r e m ∧
      (∀ e' m', RateCand f r e' m' →
        rateErr f r e m ≤ rateErr f r e' m' ∧ (e' < e → rateErr f r e m < rateErr f r e' m')) ∧
      CompletesWith .drenc s (some (BitVec.ofNat 32 (m * 2 ^ 8 + e)))
        (some (BitVec.ofNat 32 (rateMilli f e m))) none { dom := rateOut r }) ∧
    ((¬ ∃ e m, RateCand f r e m) →
      CompletesWith .drenc s (some 0) (some 0) none { nocand := true, dom := rateOut r })

/-- 42_quantizer.md R132: DRENC raises NOCAND, with RES0 = RES1 = 0, exactly below
`2·R·2^28 < 511·1000·F` or from `2·R·2^13 ≥ 1023·1000·F` on; at 26 MHz that is R ≤ 24 747 or
R ≥ 1 623 413 086, so every input of the documented domain has a candidate. -/
def Obligations.DrencHasNoCandidateExactlyOutsideTheRange : Prop :=
  ∀ s : State, Params.wf s.params = true → s.flags = {} → ∃ t, exec .drenc s = .next t ∧
    (t.flags.nocand = true ↔
      2 * s.snapA.toNat * 2 ^ 28 < 511 * 1000 * s.params.fXosc ∨
      2 * s.snapA.toNat * 2 ^ 13 ≥ 1023 * 1000 * s.params.fXosc) ∧
    (t.flags.nocand = true → t.res0 = 0 ∧ t.res1 = 0) ∧
    (s.params.fXosc = 26000000 →
      (t.flags.nocand = true ↔ s.snapA.toNat ≤ 24747 ∨ s.snapA.toNat ≥ 1623413086) ∧
      (600000 ≤ s.snapA.toNat → s.snapA.toNat ≤ 500000000 → t.flags.nocand = false))

/-- 42_quantizer.md R133, 30_encoding.md R76: DRDEC. RES0 is rate(E, M) in U32m, rounded half up, not
truncated, with E = A[3:0] and M = A[15:8]. Everything else is unchanged. -/
def Obligations.DrdecIsTheRateOfThePair : Prop :=
  encode .drdec = 0x0000_0011#32 ∧
  ∀ s : State, Params.wf s.params = true → ∃ v : Word,
    v.toNat = rateMilli s.params.fXosc (s.snapA.toNat % 16) (s.snapA.toNat / 2 ^ 8 % 256) ∧
    CompletesWith .drdec s (some v) none none {}

/-- 42_quantizer.md R134, R138: DVENC. RES0 is the byte of the pair with the least error, the first in
the order of the search (E outer, M inner) among equals, RES1 its deviation; DOM iff the request is
outside the domain. Everything else is unchanged. -/
def Obligations.DvencPicksTheFirstBestPair : Prop :=
  encode .dvenc = 0x0000_0012#32 ∧
  ∀ (s : State) (f d : Nat), f = s.params.fXosc → d = s.snapA.toNat →
    ∃ e m, e < 8 ∧ m < 8 ∧
      (∀ e' m', e' < 8 → m' < 8 →
        devErr f d e m ≤ devErr f d e' m' ∧
        (e' < e ∨ (e' = e ∧ m' < m) → devErr f d e m < devErr f d e' m')) ∧
      CompletesWith .dvenc s (some (BitVec.ofNat 32 (e * 2 ^ 4 + m)))
        (some (BitVec.ofNat 32 (devMilli f e m))) none { dom := devOut d }

/-- 42_quantizer.md R135, 30_encoding.md R77: DVDEC. RES0 is dev(E, M) in U32m, rounded half up, not
truncated, with E = A[6:4] and M = A[2:0]; bits 7 and 3 are ignored. Everything else is unchanged. -/
def Obligations.DvdecIsTheDeviationOfTheByte : Prop :=
  encode .dvdec = 0x0000_0013#32 ∧
  ∀ s : State, Params.wf s.params = true → ∃ v : Word,
    v.toNat = devMilli s.params.fXosc (s.snapA.toNat / 2 ^ 4 % 8) (s.snapA.toNat % 8) ∧
    CompletesWith .dvdec s (some v) none none {}

/-- 42_quantizer.md R136: when DRENC finds a candidate, its (E, M) minimises the error over ALL 4096
pairs, not only over the candidates. -/
def Obligations.DrencIsOptimalOverAllPairs : Prop :=
  ∀ s : State, Params.wf s.params = true → s.flags = {} → ∃ t, exec .drenc s = .next t ∧
    (t.flags.nocand = false →
      ∀ e m, e < 16 → m < 256 →
        rateErr s.params.fXosc s.snapA.toNat (t.res0.toNat % 16) (t.res0.toNat / 2 ^ 8 % 256) ≤
          rateErr s.params.fXosc s.snapA.toNat e m)

/-- 42_quantizer.md R137: DVENC's byte minimises the error over all 64 pairs, and a tie goes to the
smaller deviation; at 26 MHz no input ties; at 16 777 216 Hz the input 1 088 000 ties (0,0) with
(0,1) and DVENC returns 0x00. -/
def Obligations.DvencIsOptimalAndTiesGoDown : Prop :=
  (∀ s : State, Params.wf s.params = true → ∃ t, exec .dvenc s = .next t ∧
    ∀ e m, e < 8 → m < 8 →
      let e0 := t.res0.toNat / 2 ^ 4 % 8
      let m0 := t.res0.toNat % 8
      devErr s.params.fXosc s.snapA.toNat e0 m0 ≤ devErr s.params.fXosc s.snapA.toNat e m ∧
      (devErr s.params.fXosc s.snapA.toNat e m = devErr s.params.fXosc s.snapA.toNat e0 m0 →
        dev s.params.fXosc e0 m0 ≤ dev s.params.fXosc e m) ∧
      (s.params.fXosc = 26000000 →
        devErr s.params.fXosc s.snapA.toNat e m = devErr s.params.fXosc s.snapA.toNat e0 m0 →
          e = e0 ∧ m = m0)) ∧
  ∀ s : State, s.params.fXosc = 16777216 → s.snapA = 1088000#32 →
    devErr 16777216 1088000 0 0 = devErr 16777216 1088000 0 1 ∧
    ∃ t, exec .dvenc s = .next t ∧ t.res0 = 0

/-- 42_quantizer.md R138: DOM iff the request is outside the inclusive domain; DRDEC, DVDEC and VALID
never raise it. -/
def Obligations.DomainIsReportedInclusively : Prop :=
  ∀ s : State, s.flags = {} → ∃ t1 t2 t3 t4 t5,
    exec .drenc s = .next t1 ∧
      (t1.flags.dom = true ↔ s.snapA.toNat < 600000 ∨ s.snapA.toNat > 500000000) ∧
    exec .dvenc s = .next t2 ∧
      (t2.flags.dom = true ↔ s.snapA.toNat < 1500000 ∨ s.snapA.toNat > 380000000) ∧
    exec .drdec s = .next t3 ∧ t3.flags.dom = false ∧
    exec .dvdec s = .next t4 ∧ t4.flags.dom = false ∧
    exec .valid s = .next t5 ∧ t5.flags.dom = false

/-- 42_quantizer.md R139: every quantizer result is at most 3 992 187 500 (rates) or 937 500 000
(deviations), for every legal F, and SAT is never raised. -/
def Obligations.QuantizerResultsFitIn32Bits : Prop :=
  (∀ f e m, 1000000 ≤ f → f ≤ 64000000 →
    (e < 16 → m < 256 → rateMilli f e m ≤ rateMilli f 15 255 ∧ rateMilli f 15 255 ≤ 3992187500) ∧
    (e < 8 → m < 8 → devMilli f e m ≤ devMilli f 7 7 ∧ devMilli f 7 7 ≤ 937500000)) ∧
  ∀ s : State, Params.wf s.params = true → s.flags = {} → ∃ t1 t2 t3 t4,
    exec .drenc s = .next t1 ∧ t1.res1.toNat ≤ rateMilli s.params.fXosc 15 255 ∧
      t1.flags.sat = false ∧
    exec .drdec s = .next t2 ∧ t2.res0.toNat ≤ rateMilli s.params.fXosc 15 255 ∧
      t2.flags.sat = false ∧
    exec .dvenc s = .next t3 ∧ t3.res1.toNat ≤ devMilli s.params.fXosc 7 7 ∧
      t3.flags.sat = false ∧
    exec .dvdec s = .next t4 ∧ t4.res0.toNat ≤ devMilli s.params.fXosc 7 7 ∧
      t4.flags.sat = false

/-- 42_quantizer.md R140, over the candidates DRENC's search meets: a candidate of exponent `e` is one of
R131, and its `err` is `2^28·1000` times its distance from the request. Two exponents that both offer a
candidate are neighbours, the lower one with M = 255 and the higher with M = 0, `x = R·2^(28-E)/(1000F)`
lies in [511, 511.5), and the lower one's error is strictly less: no tie. DRENC then returns the lower
one. At 26 MHz the exponents 10 and 11 both offer one exactly for R in 50 682 068 .. 50 731 658, and
50 700 000 gives (10, 255). -/
def Obligations.DrencCandidatesNeverTie : Prop :=
  (∀ f r e c, e < 16 → rateCandidate f r e = some c →
    c.e = e ∧ RateCand f r e c.m ∧ (c.err : ℚ) = 2 ^ 28 * 1000 * rateErr f r e c.m) ∧
  (∀ f r e e' c c', 0 < f → e < e' → e' < 16 →
    rateCandidate f r e = some c → rateCandidate f r e' = some c' →
    e' = e + 1 ∧ c.m = 255 ∧ c'.m = 0 ∧
      511 * (1000 * f) ≤ r * 2 ^ (28 - e) ∧ 2 * (r * 2 ^ (28 - e)) < 1023 * (1000 * f) ∧
      c.err < c'.err) ∧
  (∀ (s : State) (e e' : Nat), Params.wf s.params = true → e < e' → e' < 16 →
    (rateCandidate s.params.fXosc s.snapA.toNat e).isSome = true →
    (rateCandidate s.params.fXosc s.snapA.toNat e').isSome = true →
    ∃ t, exec .drenc s = .next t ∧ t.res0.toNat = 255 * 2 ^ 8 + e) ∧
  (∀ r, (rateCandidate 26000000 r 10).isSome = true ∧ (rateCandidate 26000000 r 11).isSome = true ↔
    50682068 ≤ r ∧ r ≤ 50731658) ∧
  ∀ s : State, s.params.fXosc = 26000000 → s.snapA = 50700000#32 →
    ∃ t, exec .drenc s = .next t ∧ t.res0 = 0x0000_FF0A#32

/-- 30_encoding.md R76, 42_quantizer.md R131, R133, R134, R135: DRENC's RES0 written back to OPA
decodes by DRDEC to DRENC's RES1, and DVENC's RES0 by DVDEC to DVENC's RES1. -/
def Obligations.DecodingTheQuantizedWordGivesTheAchievedValue : Prop :=
  ∀ s : State, s.flags = {} →
    (∃ t, exec .drenc s = .next t ∧ (t.flags.nocand = false →
      ∃ u, exec .drdec { t with snapA := t.res0 } = .next u ∧ u.res0 = t.res1)) ∧
    ∃ t u, exec .dvenc s = .next t ∧ exec .dvdec { t with snapA := t.res0 } = .next u ∧
      u.res0 = t.res1

/-! ## The validator unit -/

/-- 43_validator.md R163, R164, 00_scope.md R13, R14: VALID's RES0 is the index in UQ16.16, rounded
half up, 0 under OOK or for a rate or a deviation of 0; RES1 is the suggested bandwidth; each
saturates at 0xFFFF_FFFF, and SAT is raised iff one of them does. Everything but RES0, RES1, RES2, the
flag and what every completion changes is unchanged. -/
def Obligations.ValidReportsIndexAndSuggestedBandwidth : Prop :=
  encode .valid = 0x0000_0020#32 ∧
  ∀ (s : State) (d r mod idx : Nat),
    d = s.snapB.toNat → r = s.snapC.toNat → mod = s.snapD.toNat % 8 →
    idx = (if mod = 3 ∨ r = 0 ∨ d = 0 then 0 else (2 * (2 * d * 2 ^ 16) + r) / (2 * r)) →
    ∃ w v0 v1 : Word, CompletesWith .valid s (some v0) (some v1) (some w)
        { sat := decide (idx ≥ 2 ^ 32 ∨ suggestion mod d r ≥ 2 ^ 32) } ∧
      v0.toNat = min idx (2 ^ 32 - 1) ∧ v1.toNat = min (suggestion mod d r) (2 ^ 32 - 1)

/-- 43_validator.md R161, R162, R165, 30_encoding.md R81: VALID's RES2. Bit k-1 is set iff the
condition of Wk holds, over exact rationals; WCOUNT is the number of those bits; VALID is 1 iff no
error, W5 or W6, is among them; MAXSEV is the highest severity; every other bit is 0. -/
def Obligations.ValidResultWordIsTheWarningTable : Prop :=
  ∀ (s : State) (mod : Nat), mod = s.snapD.toNat % 8 → ∃ t, exec .valid s = .next t ∧
    (∀ k, 1 ≤ k → k ≤ 9 →
      (warned t.res2 k = true ↔
        Emitted mod s.snapA.toNat s.snapB.toNat s.snapC.toNat k)) ∧
    t.res2.toNat / 2 ^ 12 % 8 = ((List.range' 1 9).countP (warned t.res2)) ∧
    (t.res2.getLsbD 16 = true ↔ warned t.res2 5 = false ∧ warned t.res2 6 = false) ∧
    t.res2.toNat / 2 ^ 17 % 4 =
      (if warned t.res2 5 ∨ warned t.res2 6 then 3
       else if warned t.res2 1 ∨ warned t.res2 2 ∨ warned t.res2 7 ∨ warned t.res2 9 then 2
       else if warned t.res2 3 ∨ warned t.res2 4 ∨ warned t.res2 8 then 1
       else 0) ∧
    t.res2.toNat / 2 ^ 9 % 8 = 0 ∧ t.res2.getLsbD 15 = false ∧ t.res2.toNat / 2 ^ 19 = 0

/-- 43_validator.md R166, R167: VALID writes for every input and raises nothing but SAT; under OOK only
W1 is possible and VALID = 1; otherwise at most one of {W2, W3, W4}, of {W5, W6}, of {W7, W8}, W5 only
for TWO, W6 and W9 only for FOUR; W4 and W9 never together; at most four warnings, and four only for
FOUR. -/
def Obligations.ValidWarningMapLimits : Prop :=
  ∀ (s : State) (mod : Nat), mod = s.snapD.toNat % 8 → s.flags = {} →
    ∃ t, exec .valid s = .next t ∧ (t.flags = {} ∨ t.flags = { sat := true }) ∧
      (let W := warned t.res2
       (mod = 3 → (∀ k, 2 ≤ k → k ≤ 9 → W k = false) ∧ t.res2.getLsbD 16 = true) ∧
       (mod ≠ 3 → W 1 = false) ∧
       ¬ (W 2 ∧ W 3) ∧ ¬ (W 2 ∧ W 4) ∧ ¬ (W 3 ∧ W 4) ∧ ¬ (W 5 ∧ W 6) ∧ ¬ (W 7 ∧ W 8) ∧
       (W 5 → mod ≠ 4) ∧ (W 6 → mod = 4) ∧ (W 9 → mod = 4) ∧ ¬ (W 4 ∧ W 9) ∧
       t.res2.toNat / 2 ^ 12 % 8 ≤ 4 ∧ (t.res2.toNat / 2 ^ 12 % 8 = 4 → mod = 4))

/-- 43_validator.md R168: a data rate of 0 outside OOK. RES0 = 0 and W2 is raised, under FOUR W9 too;
the suggestion is 2·DEV or 6·DEV; all-zero operands with code 0 give RES0 = RES1 = 0 and
RES2 = 0x0005_1002. -/
def Obligations.ValidWithZeroRate : Prop :=
  (∀ (s : State) (mod : Nat), mod = s.snapD.toNat % 8 → mod ≠ 3 → s.snapC = 0 →
    ∃ t, exec .valid s = .next t ∧ t.res0 = 0 ∧ warned t.res2 2 = true ∧
      (mod = 4 → warned t.res2 9 = true) ∧
      t.res1.toNat = min ((if mod = 4 then 6 else 2) * s.snapB.toNat) (2 ^ 32 - 1)) ∧
  ∀ s : State, s.snapA = 0 → s.snapB = 0 → s.snapC = 0 → s.snapD = 0 →
    ∃ t, exec .valid s = .next t ∧ t.res0 = 0 ∧ t.res1 = 0 ∧ t.res2 = 0x0005_1002#32

/-! ## The bus -/

/-- 20_memory.md R56: a read changes no state of the block, and returns the register's value; reading
again returns the same value. (The cycle count of a running command goes on: 10_state.md R32.) -/
def Obligations.ReadsHaveNoSideEffect : Prop :=
  ∀ (s : State) (off : Nat) (rest : List HostOp), s.inflight ≠ some 0 → off < 64 → off % 4 = 0 →
    Delivers s off .read rest →
    step s = .next
      { s with inflight := ticked s, inputs := rest, response := .data (readOffset s off) } ∧
    readOffset { s with
      inflight := ticked s, inputs := rest, response := .data (readOffset s off) } off =
      readOffset s off

/-- 20_memory.md R51, 10_state.md R24, R28: what a read of each offset returns; STATUS bit by bit. -/
def Obligations.RegisterMapReadsEachRegister : Prop :=
  ∀ s : State,
    readOffset s 0x00 = s.cmd ∧ readOffset s 0x0C = BitVec.ofNat 32 s.params.fXosc ∧
    readOffset s 0x10 = s.opa ∧ readOffset s 0x14 = s.opb ∧ readOffset s 0x18 = s.opc ∧
    readOffset s 0x1C = s.opd ∧ readOffset s 0x20 = s.res0 ∧ readOffset s 0x24 = s.res1 ∧
    readOffset s 0x28 = s.res2 ∧
    (readOffset s 0x08).toNat = s.ien.toNat ∧
    (readOffset s 0x04).toNat =
      s.inflight.isSome.toNat + 2 * s.done.toNat + 4 * s.overrun.toNat +
        8 * s.flags.illegal.toNat + 2 ^ 8 * s.flags.empty.toNat + 2 ^ 9 * s.flags.ncontig.toNat +
        2 ^ 10 * s.flags.vovf.toNat + 2 ^ 11 * s.flags.badaddr.toNat +
        2 ^ 12 * s.flags.badbit.toNat + 2 ^ 13 * s.flags.nocand.toNat + 2 ^ 14 * s.flags.dom.toNat +
        2 ^ 15 * s.flags.sat.toNat + 2 ^ 24 * s.lastop.toNat

/-- 20_memory.md R54: a read of a reserved offset returns 0, a write to one is ignored, neither is an
error. -/
def Obligations.ReservedOffsetsReadZeroAndIgnoreWrites : Prop :=
  ∀ (s : State) (off : Nat) (rest : List HostOp), s.inflight ≠ some 0 →
    off ∈ [0x2C, 0x30, 0x34, 0x38, 0x3C] →
    (Delivers s off .read rest → step s = .next
      { s with inflight := ticked s, inputs := rest, response := .data 0 }) ∧
    ∀ v, Delivers s off (.write v) rest → step s = .next
      { s with inflight := ticked s, inputs := rest, response := .ack }

/-- 20_memory.md R55: a write to FXOSC or RES0..RES2 is ignored without an error. -/
def Obligations.WritesToReadOnlyRegistersAreIgnored : Prop :=
  ∀ (s : State) (off : Nat) (v : Word) (rest : List HostOp), s.inflight ≠ some 0 →
    off ∈ [0x0C, 0x20, 0x24, 0x28] → Delivers s off (.write v) rest →
    step s = .next { s with inflight := ticked s, inputs := rest, response := .ack }

/-- 10_state.md R21: a host write stores all 32 bits in the operand register, a read returns them, and
no other register changes. -/
def Obligations.OperandRegistersStoreTheWrittenWord : Prop :=
  ∀ (s : State) (v : Word) (rest : List HostOp), s.inflight = none →
    (Delivers s 0x10 (.write v) rest → ∃ t, step s = .next t ∧ readOffset t 0x10 = v ∧
      t = { s with opa := v, inputs := rest, response := .ack }) ∧
    (Delivers s 0x14 (.write v) rest → ∃ t, step s = .next t ∧ readOffset t 0x14 = v ∧
      t = { s with opb := v, inputs := rest, response := .ack }) ∧
    (Delivers s 0x18 (.write v) rest → ∃ t, step s = .next t ∧ readOffset t 0x18 = v ∧
      t = { s with opc := v, inputs := rest, response := .ack }) ∧
    (Delivers s 0x1C (.write v) rest → ∃ t, step s = .next t ∧ readOffset t 0x1C = v ∧
      t = { s with opd := v, inputs := rest, response := .ack })

/-- 10_state.md R24, 20_memory.md R55, R57: a write to STATUS clears DONE where bit 1 is 1 and OVERRUN
where bit 2 is 1, and changes nothing else. -/
def Obligations.StatusWriteClearsDoneAndOverrunOnly : Prop :=
  ∀ (s : State) (v : Word) (rest : List HostOp), s.inflight ≠ some 0 →
    Delivers s 0x04 (.write v) rest → step s = .next
      { s with
        done := if v.toNat / 2 % 2 = 1 then false else s.done
        overrun := if v.toNat / 4 % 2 = 1 then false else s.overrun
        inflight := ticked s, inputs := rest, response := .ack }

/-- 10_state.md R28: a write to CTRL sets IEN to bit 0 and changes nothing else; CTRL then reads bit 0
alone. -/
def Obligations.CtrlWriteSetsIenOnly : Prop :=
  ∀ (s : State) (v : Word) (rest : List HostOp), s.inflight ≠ some 0 →
    Delivers s 0x08 (.write v) rest → ∃ t, step s = .next t ∧
      t = { s with
            ien := decide (v.toNat % 2 = 1), inflight := ticked s, inputs := rest
            response := .ack } ∧
      (readOffset t 0x08).toNat = v.toNat % 2

/-- 20_memory.md R64: an access outside the aperture does nothing in the block (log 7: the answer is
the platform's and is not modelled). -/
def Obligations.AccessOutsideTheApertureDoesNothing : Prop :=
  ∀ (s : State) (a : Access) (rest : List HostOp), s.inflight ≠ some 0 →
    s.inputs = .access a :: rest → a.addr < s.params.base ∨ s.params.base + 0x3F < a.addr →
    step s = .next { s with inflight := ticked s, inputs := rest, response := .none }

/-- 30_encoding.md R83: `wait` polls STATUS; it is done when it has read bit 0 as 0, and tries again in
the next cycle otherwise. -/
def Obligations.WaitPollsUntilBusyReadsZero : Prop :=
  ∀ (s : State) (rest : List HostOp), s.inputs = .wait :: rest →
    (∀ k, s.inflight = some (k + 1) →
      step s = .next { s with inflight := some k, response := .data s.statusWord }) ∧
    (s.inflight = none →
      step s = .next { s with inputs := rest, response := .data s.statusWord })

/-- 30_encoding.md R84: from an idle block, the accesses of a pseudo-instruction end with the command
accepted and its operands, in the order of R74, in the snapshot. -/
def Obligations.PseudoInstructionsIssueTheirCommand : Prop :=
  ∀ (s : State) (rest : List HostOp) (x y z u : Word), s.inflight = none →
    let issued (p : Stmt) (n : Nat) (ok : State → Prop) : Prop :=
      s.inputs = Stmt.expand s.params p ++ rest →
        ∃ t : State, runSteps n s = .next t ∧ t.busy = true ∧ t.inputs = rest ∧
          ok t
    issued .nop 1 (fun t => t.cmd = 0x00#32) ∧
    issued (.fext x y) 3 (fun t => t.cmd = 0x01#32 ∧ t.snapA = x ∧ t.snapB = y) ∧
    issued (.fins x y z) 4 (fun t => t.cmd = 0x02#32 ∧ t.snapA = x ∧ t.snapB = y ∧ t.snapC = z) ∧
    issued (.vbits x) 2 (fun t => t.cmd = 0x03#32 ∧ t.snapA = x) ∧
    issued (.ffbit x y) 3 (fun t => t.cmd = 0x04#32 ∧ t.snapA = x ∧ t.snapB = y) ∧
    issued (.drenc x) 2 (fun t => t.cmd = 0x10#32 ∧ t.snapA = x) ∧
    (x.toNat < 16 → y.toNat < 256 → issued (.drdec x y) 2
      (fun t => t.cmd = 0x11#32 ∧ t.snapA.toNat = y.toNat * 2 ^ 8 + x.toNat)) ∧
    issued (.dvenc x) 2 (fun t => t.cmd = 0x12#32 ∧ t.snapA = x) ∧
    issued (.dvdec x) 2 (fun t => t.cmd = 0x13#32 ∧ t.snapA = x) ∧
    issued (.valid x y z u) 5
      (fun t => t.cmd = 0x20#32 ∧ t.snapA = x ∧ t.snapB = y ∧ t.snapC = z ∧ t.snapD = u)

/-! ## Interrupt, reset and whole-machine rules -/

/-- 60_exceptions.md R195, R196, 10_state.md R26: IRQ is DONE AND IEN; a completion with IEN = 1
asserts it, and so does a write of 1 to IEN while DONE = 1; a write to STATUS with bit 1 set or a write of
0 to IEN deasserts it. Nothing else does: a step that asserts it is a completion or a write of 1 to IEN
while DONE; a step that deasserts it is one of those two writes, an acceptance, or a reset. -/
def Obligations.IrqFollowsDoneAndIen : Prop :=
  ∀ s t : State, step s = .next t →
    (s.irq = (s.done && s.ien)) ∧
    (Due s → s.ien = true → t.irq = true) ∧
    (s.inflight ≠ some 0 → ∀ v rest,
      (Delivers s 0x08 (.write v) rest → t.irq = (s.done && v.getLsbD 0)) ∧
      (Delivers s 0x04 (.write v) rest → v.getLsbD 1 = true → t.irq = false)) ∧
    (s.irq = false → t.irq = true →
      Due s ∨
      (s.done = true ∧ ∃ v rest, v.getLsbD 0 = true ∧ Delivers s 0x08 (.write v) rest)) ∧
    (s.irq = true → t.irq = false →
      ∃ rest, s.inputs = .reset :: rest ∨
        (∃ v, v.getLsbD 1 = true ∧ Delivers s 0x04 (.write v) rest) ∨
        (∃ v, v.getLsbD 0 = false ∧ Delivers s 0x08 (.write v) rest) ∨
        (s.inflight = none ∧ ∃ v, Delivers s 0x00 (.write v) rest))

/-- 60_exceptions.md R192, R190: OVERRUN is cleared by a write to STATUS with bit 2 set or by reset, and
by nothing else, an acceptance or a completion least of all; it is set only by a CMD write while
BUSY = 1. -/
def Obligations.OverrunIsSticky : Prop :=
  ∀ s t : State, step s = .next t →
    (s.overrun = true → t.overrun = false →
      ∃ rest, s.inputs = .reset :: rest ∨
        ∃ v, v.getLsbD 2 = true ∧ Delivers s 0x04 (.write v) rest) ∧
    (∀ rest, s.inputs = .reset :: rest → t.overrun = false) ∧
    (s.inflight ≠ some 0 → ∀ rest v, v.getLsbD 2 = true → Delivers s 0x04 (.write v) rest → t.overrun = false) ∧
    (s.overrun = false → t.overrun = true →
      s.busy = true ∧ ∃ v rest, Delivers s 0x00 (.write v) rest)

/-- 10_state.md R21, R22, R23, R24, R25, R28, R31, 40_command.md R91, in a step that is not a reset: the
result registers and LASTOP change only at a completion; the per-command flags, ILLEGAL and STATUS[15:8],
and BUSY only at an acceptance or a completion; DONE only at these or at a write to STATUS; CMD and the
snapshot only at an acceptance; the operand registers and IEN only by a host write to them. OVERRUN is
OverrunIsSticky's, the parameters are ParametersNeverChange's. -/
def Obligations.RegistersChangeOnlyByTheirWriters : Prop :=
  ∀ s t : State, step s = .next t → (∀ rest, s.inputs ≠ .reset :: rest) →
    let completion : Prop := s.inflight = some 0
    let acceptance : Prop := s.inflight = none ∧ ∃ v rest, Delivers s 0x00 (.write v) rest
    let written (off : Nat) : Prop := ∃ v rest, Delivers s off (.write v) rest
    (¬ completion →
      t.res0 = s.res0 ∧ t.res1 = s.res1 ∧ t.res2 = s.res2 ∧ t.lastop = s.lastop) ∧
    (¬ completion → ¬ acceptance → t.flags = s.flags ∧ t.busy = s.busy) ∧
    (¬ completion → ¬ acceptance → ¬ written 0x04 → t.done = s.done) ∧
    (¬ acceptance →
      t.cmd = s.cmd ∧ t.snapA = s.snapA ∧ t.snapB = s.snapB ∧ t.snapC = s.snapC ∧
        t.snapD = s.snapD) ∧
    (¬ written 0x10 → t.opa = s.opa) ∧ (¬ written 0x14 → t.opb = s.opb) ∧
    (¬ written 0x18 → t.opc = s.opc) ∧ (¬ written 0x1C → t.opd = s.opd) ∧
    (¬ written 0x08 → t.ien = s.ien) ∧
    (completion → t.ien = s.ien ∧ t.opa = s.opa ∧ t.opb = s.opb ∧ t.opc = s.opc ∧ t.opd = s.opd)

/-- 10_state.md R27, R29: no step changes the crystal constant, the catalog ROM or another build
parameter. -/
def Obligations.ParametersNeverChange : Prop :=
  ∀ s t : State, step s = .next t → t.params = s.params

/-- 70_reset_and_hazards.md R211, R210, R212, 10_state.md R36: the reset input puts every register at its
reset value in one step, and aborts a command in flight, one whose completion is due too: nothing is
written, DONE is 0 (an entry of the host's list is a cycle of reset: log 10). The parameters are as built; the first CMD write after it is accepted. The snapshot
and the model's own fields are not constrained here. -/
def Obligations.ResetInputPutsEveryRegisterAtItsResetValue : Prop :=
  ∀ (s : State) (rest : List HostOp), s.inputs = .reset :: rest →
    ∃ t, step s = .next t ∧
      t.cmd = 0 ∧ t.statusWord = 0 ∧ t.ctrlWord = 0 ∧ t.irq = false ∧
      t.opa = 0 ∧ t.opb = 0 ∧ t.opc = 0 ∧ t.opd = 0 ∧ t.res0 = 0 ∧ t.res1 = 0 ∧ t.res2 = 0 ∧
      t.inflight = none ∧ t.params = s.params ∧ t.inputs = rest ∧
      ∀ w rest', Delivers t 0x00 (.write w) rest' →
        ∃ u, step t = .next u ∧ u.cmd = w ∧ u.busy = true ∧ u.overrun = false

/-- 10_state.md R36, R27, R30, 00_scope.md R5: State.reset has every register at its reset value, a
crystal frequency in the legal range that FXOSC reads back, and a well-formed catalog. -/
def Obligations.ResetStateHasTheStatedValues : Prop :=
  let s := State.reset
  s.cmd = 0 ∧ s.statusWord = 0 ∧ s.ctrlWord = 0 ∧ s.irq = false ∧
  s.opa = 0 ∧ s.opb = 0 ∧ s.opc = 0 ∧ s.opd = 0 ∧ s.res0 = 0 ∧ s.res1 = 0 ∧ s.res2 = 0 ∧
  s.inflight = none ∧
  1000000 ≤ s.params.fXosc ∧ s.params.fXosc ≤ 64000000 ∧
  (readOffset s 0x0C).toNat = s.params.fXosc ∧
  Catalog.wf s.params.catalog = true ∧ s.params.base % 64 = 0

/-- The invariant holds at reset. -/
def Obligations.InvariantHoldsAtReset : Prop := State.Inv State.reset

/-- Every step keeps the invariant: the parameters stay legal; while BUSY = 1, DONE and the
per-command flags are 0; the completion is due within the latency; the flags are ones the command in
LASTOP can have raised, ILLEGAL alone; what a cause records is in the result registers; RES2's
reserved bits are 0. -/
def Obligations.EveryStepKeepsTheInvariant : Prop :=
  ∀ s t : State, State.Inv s → step s = .next t → State.Inv t

/-- 60_exceptions.md R190, R191, 40_command.md R90, R91 over the whole machine. Whatever flags an earlier
command left, `f` or those of `s`, the same CMD write and its completion, a latency later, give the same
state. And from every state that meets the invariant, a completion leaves exactly the flags that the table
of R190 gives the word in CMD and the snapshot, every other flag 0. -/
def Obligations.FlagsDescribeOnlyTheLastCompletedCommand : Prop :=
  (∀ (s : State) (f : Flags) (w : Word) (rest : List HostOp), Params.wf s.params = true →
    s.inflight = none → Delivers s 0x00 (.write w) rest →
    (∀ op ∈ rest, HostOp.harmless s.params op = true) →
    ∃ u, runSteps (1 + wordLatency s.params.latency w) s = .next u ∧
      runSteps (1 + wordLatency s.params.latency w) { s with flags := f } = .next u ∧
      u.cmd = w ∧ u.inflight = none ∧ u.done = true ∧ u.lastop = w.extractLsb' 0 8) ∧
  ∀ s : State, State.Inv s → Due s → ∃ t, step s = .next t ∧ CausesOf s t.flags
end

