-- ==== Sys2Proof/Laws/State.lean ====
section
/-! SUPPORT. One lemma per field for each named update of the state, true by rfl, so that no proof
unfolds a record update again. -/

namespace Sys2Proof.Machine

/-! complete -/

@[simp] theorem complete_params (r : OpResult) (s : State) :
    (complete r s).params = s.params := rfl

@[simp] theorem complete_cmd (r : OpResult) (s : State) :
    (complete r s).cmd = s.cmd := rfl

@[simp] theorem complete_done (r : OpResult) (s : State) :
    (complete r s).done = true := rfl

@[simp] theorem complete_overrun (r : OpResult) (s : State) :
    (complete r s).overrun = s.overrun := rfl

@[simp] theorem complete_flags (r : OpResult) (s : State) :
    (complete r s).flags = s.flags.raise r.flags := rfl

@[simp] theorem complete_lastop (r : OpResult) (s : State) :
    (complete r s).lastop = opcField s.cmd := rfl

@[simp] theorem complete_ien (r : OpResult) (s : State) :
    (complete r s).ien = s.ien := rfl

@[simp] theorem complete_opa (r : OpResult) (s : State) :
    (complete r s).opa = s.opa := rfl

@[simp] theorem complete_opb (r : OpResult) (s : State) :
    (complete r s).opb = s.opb := rfl

@[simp] theorem complete_opc (r : OpResult) (s : State) :
    (complete r s).opc = s.opc := rfl

@[simp] theorem complete_opd (r : OpResult) (s : State) :
    (complete r s).opd = s.opd := rfl

@[simp] theorem complete_res0 (r : OpResult) (s : State) :
    (complete r s).res0 = r.res0.getD s.res0 := rfl

@[simp] theorem complete_res1 (r : OpResult) (s : State) :
    (complete r s).res1 = r.res1.getD s.res1 := rfl

@[simp] theorem complete_res2 (r : OpResult) (s : State) :
    (complete r s).res2 = r.res2.getD s.res2 := rfl

@[simp] theorem complete_snapA (r : OpResult) (s : State) :
    (complete r s).snapA = s.snapA := rfl

@[simp] theorem complete_snapB (r : OpResult) (s : State) :
    (complete r s).snapB = s.snapB := rfl

@[simp] theorem complete_snapC (r : OpResult) (s : State) :
    (complete r s).snapC = s.snapC := rfl

@[simp] theorem complete_snapD (r : OpResult) (s : State) :
    (complete r s).snapD = s.snapD := rfl

@[simp] theorem complete_inflight (r : OpResult) (s : State) :
    (complete r s).inflight = none := rfl

@[simp] theorem complete_inputs (r : OpResult) (s : State) :
    (complete r s).inputs = s.inputs := rfl

@[simp] theorem complete_response (r : OpResult) (s : State) :
    (complete r s).response = s.response := rfl

/-! accept -/

@[simp] theorem accept_params (w : Word) (s : State) :
    (accept w s).params = s.params := rfl

@[simp] theorem accept_cmd (w : Word) (s : State) :
    (accept w s).cmd = w := rfl

@[simp] theorem accept_done (w : Word) (s : State) :
    (accept w s).done = false := rfl

@[simp] theorem accept_overrun (w : Word) (s : State) :
    (accept w s).overrun = s.overrun := rfl

@[simp] theorem accept_flags (w : Word) (s : State) :
    (accept w s).flags = Flags.clear := rfl

@[simp] theorem accept_lastop (w : Word) (s : State) :
    (accept w s).lastop = s.lastop := rfl

@[simp] theorem accept_ien (w : Word) (s : State) :
    (accept w s).ien = s.ien := rfl

@[simp] theorem accept_opa (w : Word) (s : State) :
    (accept w s).opa = s.opa := rfl

@[simp] theorem accept_opb (w : Word) (s : State) :
    (accept w s).opb = s.opb := rfl

@[simp] theorem accept_opc (w : Word) (s : State) :
    (accept w s).opc = s.opc := rfl

@[simp] theorem accept_opd (w : Word) (s : State) :
    (accept w s).opd = s.opd := rfl

@[simp] theorem accept_res0 (w : Word) (s : State) :
    (accept w s).res0 = s.res0 := rfl

@[simp] theorem accept_res1 (w : Word) (s : State) :
    (accept w s).res1 = s.res1 := rfl

@[simp] theorem accept_res2 (w : Word) (s : State) :
    (accept w s).res2 = s.res2 := rfl

@[simp] theorem accept_snapA (w : Word) (s : State) :
    (accept w s).snapA = s.opa := rfl

@[simp] theorem accept_snapB (w : Word) (s : State) :
    (accept w s).snapB = s.opb := rfl

@[simp] theorem accept_snapC (w : Word) (s : State) :
    (accept w s).snapC = s.opc := rfl

@[simp] theorem accept_snapD (w : Word) (s : State) :
    (accept w s).snapD = s.opd := rfl

@[simp] theorem accept_inflight (w : Word) (s : State) :
    (accept w s).inflight = some (wordLatency s.params.latency w - 1) := rfl

@[simp] theorem accept_inputs (w : Word) (s : State) :
    (accept w s).inputs = s.inputs := rfl

@[simp] theorem accept_response (w : Word) (s : State) :
    (accept w s).response = s.response := rfl

/-! tick -/

@[simp] theorem tick_params (s : State) :
    (tick s).params = s.params := rfl

@[simp] theorem tick_cmd (s : State) :
    (tick s).cmd = s.cmd := rfl

@[simp] theorem tick_done (s : State) :
    (tick s).done = s.done := rfl

@[simp] theorem tick_overrun (s : State) :
    (tick s).overrun = s.overrun := rfl

@[simp] theorem tick_flags (s : State) :
    (tick s).flags = s.flags := rfl

@[simp] theorem tick_lastop (s : State) :
    (tick s).lastop = s.lastop := rfl

@[simp] theorem tick_ien (s : State) :
    (tick s).ien = s.ien := rfl

@[simp] theorem tick_opa (s : State) :
    (tick s).opa = s.opa := rfl

@[simp] theorem tick_opb (s : State) :
    (tick s).opb = s.opb := rfl

@[simp] theorem tick_opc (s : State) :
    (tick s).opc = s.opc := rfl

@[simp] theorem tick_opd (s : State) :
    (tick s).opd = s.opd := rfl

@[simp] theorem tick_res0 (s : State) :
    (tick s).res0 = s.res0 := rfl

@[simp] theorem tick_res1 (s : State) :
    (tick s).res1 = s.res1 := rfl

@[simp] theorem tick_res2 (s : State) :
    (tick s).res2 = s.res2 := rfl

@[simp] theorem tick_snapA (s : State) :
    (tick s).snapA = s.snapA := rfl

@[simp] theorem tick_snapB (s : State) :
    (tick s).snapB = s.snapB := rfl

@[simp] theorem tick_snapC (s : State) :
    (tick s).snapC = s.snapC := rfl

@[simp] theorem tick_snapD (s : State) :
    (tick s).snapD = s.snapD := rfl

@[simp] theorem tick_inflight (s : State) :
    (tick s).inflight = s.inflight.map fun k => k - 1 := rfl

@[simp] theorem tick_inputs (s : State) :
    (tick s).inputs = s.inputs := rfl

@[simp] theorem tick_response (s : State) :
    (tick s).response = s.response := rfl

/-! poll -/

@[simp] theorem poll_params (rest : List HostOp) (s : State) :
    (poll rest s).params = s.params := rfl

@[simp] theorem poll_cmd (rest : List HostOp) (s : State) :
    (poll rest s).cmd = s.cmd := rfl

@[simp] theorem poll_done (rest : List HostOp) (s : State) :
    (poll rest s).done = s.done := rfl

@[simp] theorem poll_overrun (rest : List HostOp) (s : State) :
    (poll rest s).overrun = s.overrun := rfl

@[simp] theorem poll_flags (rest : List HostOp) (s : State) :
    (poll rest s).flags = s.flags := rfl

@[simp] theorem poll_lastop (rest : List HostOp) (s : State) :
    (poll rest s).lastop = s.lastop := rfl

@[simp] theorem poll_ien (rest : List HostOp) (s : State) :
    (poll rest s).ien = s.ien := rfl

@[simp] theorem poll_opa (rest : List HostOp) (s : State) :
    (poll rest s).opa = s.opa := rfl

@[simp] theorem poll_opb (rest : List HostOp) (s : State) :
    (poll rest s).opb = s.opb := rfl

@[simp] theorem poll_opc (rest : List HostOp) (s : State) :
    (poll rest s).opc = s.opc := rfl

@[simp] theorem poll_opd (rest : List HostOp) (s : State) :
    (poll rest s).opd = s.opd := rfl

@[simp] theorem poll_res0 (rest : List HostOp) (s : State) :
    (poll rest s).res0 = s.res0 := rfl

@[simp] theorem poll_res1 (rest : List HostOp) (s : State) :
    (poll rest s).res1 = s.res1 := rfl

@[simp] theorem poll_res2 (rest : List HostOp) (s : State) :
    (poll rest s).res2 = s.res2 := rfl

@[simp] theorem poll_snapA (rest : List HostOp) (s : State) :
    (poll rest s).snapA = s.snapA := rfl

@[simp] theorem poll_snapB (rest : List HostOp) (s : State) :
    (poll rest s).snapB = s.snapB := rfl

@[simp] theorem poll_snapC (rest : List HostOp) (s : State) :
    (poll rest s).snapC = s.snapC := rfl

@[simp] theorem poll_snapD (rest : List HostOp) (s : State) :
    (poll rest s).snapD = s.snapD := rfl

@[simp] theorem poll_inflight (rest : List HostOp) (s : State) :
    (poll rest s).inflight = s.inflight := rfl

@[simp] theorem poll_inputs (rest : List HostOp) (s : State) :
    (poll rest s).inputs = if s.statusWord.getLsbD 0 then s.inputs else rest := rfl

@[simp] theorem poll_response (rest : List HostOp) (s : State) :
    (poll rest s).response = .data s.statusWord := rfl

/-! answer -/

@[simp] theorem answer_params (r : Response) (s : State) :
    (answer r s).params = s.params := rfl

@[simp] theorem answer_cmd (r : Response) (s : State) :
    (answer r s).cmd = s.cmd := rfl

@[simp] theorem answer_done (r : Response) (s : State) :
    (answer r s).done = s.done := rfl

@[simp] theorem answer_overrun (r : Response) (s : State) :
    (answer r s).overrun = s.overrun := rfl

@[simp] theorem answer_flags (r : Response) (s : State) :
    (answer r s).flags = s.flags := rfl

@[simp] theorem answer_lastop (r : Response) (s : State) :
    (answer r s).lastop = s.lastop := rfl

@[simp] theorem answer_ien (r : Response) (s : State) :
    (answer r s).ien = s.ien := rfl

@[simp] theorem answer_opa (r : Response) (s : State) :
    (answer r s).opa = s.opa := rfl

@[simp] theorem answer_opb (r : Response) (s : State) :
    (answer r s).opb = s.opb := rfl

@[simp] theorem answer_opc (r : Response) (s : State) :
    (answer r s).opc = s.opc := rfl

@[simp] theorem answer_opd (r : Response) (s : State) :
    (answer r s).opd = s.opd := rfl

@[simp] theorem answer_res0 (r : Response) (s : State) :
    (answer r s).res0 = s.res0 := rfl

@[simp] theorem answer_res1 (r : Response) (s : State) :
    (answer r s).res1 = s.res1 := rfl

@[simp] theorem answer_res2 (r : Response) (s : State) :
    (answer r s).res2 = s.res2 := rfl

@[simp] theorem answer_snapA (r : Response) (s : State) :
    (answer r s).snapA = s.snapA := rfl

@[simp] theorem answer_snapB (r : Response) (s : State) :
    (answer r s).snapB = s.snapB := rfl

@[simp] theorem answer_snapC (r : Response) (s : State) :
    (answer r s).snapC = s.snapC := rfl

@[simp] theorem answer_snapD (r : Response) (s : State) :
    (answer r s).snapD = s.snapD := rfl

@[simp] theorem answer_inflight (r : Response) (s : State) :
    (answer r s).inflight = s.inflight := rfl

@[simp] theorem answer_inputs (r : Response) (s : State) :
    (answer r s).inputs = s.inputs := rfl

@[simp] theorem answer_response (r : Response) (s : State) :
    (answer r s).response = r := rfl

/-! dequeue -/

@[simp] theorem dequeue_params (rest : List HostOp) (s : State) :
    (dequeue rest s).params = s.params := rfl

@[simp] theorem dequeue_cmd (rest : List HostOp) (s : State) :
    (dequeue rest s).cmd = s.cmd := rfl

@[simp] theorem dequeue_done (rest : List HostOp) (s : State) :
    (dequeue rest s).done = s.done := rfl

@[simp] theorem dequeue_overrun (rest : List HostOp) (s : State) :
    (dequeue rest s).overrun = s.overrun := rfl

@[simp] theorem dequeue_flags (rest : List HostOp) (s : State) :
    (dequeue rest s).flags = s.flags := rfl

@[simp] theorem dequeue_lastop (rest : List HostOp) (s : State) :
    (dequeue rest s).lastop = s.lastop := rfl

@[simp] theorem dequeue_ien (rest : List HostOp) (s : State) :
    (dequeue rest s).ien = s.ien := rfl

@[simp] theorem dequeue_opa (rest : List HostOp) (s : State) :
    (dequeue rest s).opa = s.opa := rfl

@[simp] theorem dequeue_opb (rest : List HostOp) (s : State) :
    (dequeue rest s).opb = s.opb := rfl

@[simp] theorem dequeue_opc (rest : List HostOp) (s : State) :
    (dequeue rest s).opc = s.opc := rfl

@[simp] theorem dequeue_opd (rest : List HostOp) (s : State) :
    (dequeue rest s).opd = s.opd := rfl

@[simp] theorem dequeue_res0 (rest : List HostOp) (s : State) :
    (dequeue rest s).res0 = s.res0 := rfl

@[simp] theorem dequeue_res1 (rest : List HostOp) (s : State) :
    (dequeue rest s).res1 = s.res1 := rfl

@[simp] theorem dequeue_res2 (rest : List HostOp) (s : State) :
    (dequeue rest s).res2 = s.res2 := rfl

@[simp] theorem dequeue_snapA (rest : List HostOp) (s : State) :
    (dequeue rest s).snapA = s.snapA := rfl

@[simp] theorem dequeue_snapB (rest : List HostOp) (s : State) :
    (dequeue rest s).snapB = s.snapB := rfl

@[simp] theorem dequeue_snapC (rest : List HostOp) (s : State) :
    (dequeue rest s).snapC = s.snapC := rfl

@[simp] theorem dequeue_snapD (rest : List HostOp) (s : State) :
    (dequeue rest s).snapD = s.snapD := rfl

@[simp] theorem dequeue_inflight (rest : List HostOp) (s : State) :
    (dequeue rest s).inflight = s.inflight := rfl

@[simp] theorem dequeue_inputs (rest : List HostOp) (s : State) :
    (dequeue rest s).inputs = rest := rfl

@[simp] theorem dequeue_response (rest : List HostOp) (s : State) :
    (dequeue rest s).response = s.response := rfl

/-! applyReset -/

@[simp] theorem applyReset_params (rest : List HostOp) (s : State) :
    (applyReset rest s).params = s.params := rfl

@[simp] theorem applyReset_cmd (rest : List HostOp) (s : State) :
    (applyReset rest s).cmd = 0 := rfl

@[simp] theorem applyReset_done (rest : List HostOp) (s : State) :
    (applyReset rest s).done = false := rfl

@[simp] theorem applyReset_overrun (rest : List HostOp) (s : State) :
    (applyReset rest s).overrun = false := rfl

@[simp] theorem applyReset_flags (rest : List HostOp) (s : State) :
    (applyReset rest s).flags = {} := rfl

@[simp] theorem applyReset_lastop (rest : List HostOp) (s : State) :
    (applyReset rest s).lastop = 0 := rfl

@[simp] theorem applyReset_ien (rest : List HostOp) (s : State) :
    (applyReset rest s).ien = false := rfl

@[simp] theorem applyReset_opa (rest : List HostOp) (s : State) :
    (applyReset rest s).opa = 0 := rfl

@[simp] theorem applyReset_opb (rest : List HostOp) (s : State) :
    (applyReset rest s).opb = 0 := rfl

@[simp] theorem applyReset_opc (rest : List HostOp) (s : State) :
    (applyReset rest s).opc = 0 := rfl

@[simp] theorem applyReset_opd (rest : List HostOp) (s : State) :
    (applyReset rest s).opd = 0 := rfl

@[simp] theorem applyReset_res0 (rest : List HostOp) (s : State) :
    (applyReset rest s).res0 = 0 := rfl

@[simp] theorem applyReset_res1 (rest : List HostOp) (s : State) :
    (applyReset rest s).res1 = 0 := rfl

@[simp] theorem applyReset_res2 (rest : List HostOp) (s : State) :
    (applyReset rest s).res2 = 0 := rfl

@[simp] theorem applyReset_snapA (rest : List HostOp) (s : State) :
    (applyReset rest s).snapA = Config.snapshotAtReset 0 := rfl

@[simp] theorem applyReset_snapB (rest : List HostOp) (s : State) :
    (applyReset rest s).snapB = Config.snapshotAtReset 1 := rfl

@[simp] theorem applyReset_snapC (rest : List HostOp) (s : State) :
    (applyReset rest s).snapC = Config.snapshotAtReset 2 := rfl

@[simp] theorem applyReset_snapD (rest : List HostOp) (s : State) :
    (applyReset rest s).snapD = Config.snapshotAtReset 3 := rfl

@[simp] theorem applyReset_inflight (rest : List HostOp) (s : State) :
    (applyReset rest s).inflight = none := rfl

@[simp] theorem applyReset_inputs (rest : List HostOp) (s : State) :
    (applyReset rest s).inputs = rest := rfl

@[simp] theorem applyReset_response (rest : List HostOp) (s : State) :
    (applyReset rest s).response = .none := rfl

/-! Flags -/

@[simp] theorem Flags.clear_eq : Flags.clear = {} := rfl

@[simp] theorem Flags.raise_none (f : Flags) : f.raise {} = f := by
  cases f; simp [Flags.raise]

@[simp] theorem Flags.none_raise (f : Flags) : Flags.raise {} f = f := by
  cases f; simp [Flags.raise]

theorem State.busy_eq_false_iff (s : State) : s.busy = false ↔ s.inflight = none := by
  cases h : s.inflight <;> simp [State.busy, h]

theorem State.busy_eq_true_iff (s : State) : s.busy = true ↔ ∃ k, s.inflight = some k := by
  cases h : s.inflight <;> simp [State.busy, h]

end Sys2Proof.Machine
end

