-- ==== Sys2Proof/Laws/Ops.lean ====
section
/-! SUPPORT. What each shared operation can do, said once: the decoder, the completion of a command,
a bus access, a cycle of the bus, a step. -/

namespace Sys2Proof.Machine

/-- The result a command's rule gives: a function of the parameters and the snapshot. -/
def opResult (i : Instr) (s : State) : OpResult :=
  match i with
  | .nop => {}
  | .fext => fextOp s.snapA s.snapB
  | .fins => finsOp s.snapA s.snapB s.snapC
  | .vbits => vbitsOp s.params.catalog s.snapA
  | .ffbit => ffbitOp s.params.catalog s.snapA s.snapB
  | .drenc => drencOp s.params.fXosc s.snapA
  | .drdec => drdecOp s.params.fXosc s.snapA
  | .dvenc => dvencOp s.params.fXosc s.snapA
  | .dvdec => dvdecOp s.params.fXosc s.snapA
  | .valid => validOp s.snapA s.snapB s.snapC s.snapD

/-- The result the word in CMD gives, legal or not. -/
def dueResult (s : State) : OpResult :=
  match decode s.cmd with
  | .ok i => opResult i s
  | .error _ => { flags := { illegal := true } }

/-- Every command completes: its meaning is the shared completion with its result. -/
theorem exec_eq_complete (i : Instr) (s : State) : exec i s = .next (complete (opResult i s) s) := by
  cases i <;> rfl

theorem runCommand_eq_complete (s : State) : runCommand s = .next (complete (dueResult s) s) := by
  unfold runCommand dueResult
  cases h : decode s.cmd with
  | ok i => exact exec_eq_complete i s
  | error e => rfl

/-! Whether the engine or the bus moves. -/

theorem inReset_iff {s : State} : inReset s = true ↔ ∃ rest, s.inputs = .reset :: rest := by
  unfold inReset
  split <;> simp_all

theorem completesNow_iff {s : State} :
    completesNow s = true ↔ s.inflight = some 0 ∧ ∀ rest, s.inputs ≠ .reset :: rest := by
  have h := inReset_iff (s := s)
  unfold completesNow
  cases hr : inReset s <;> simp_all

theorem step_due {s : State} (h : s.inflight = some 0) (hr : ∀ rest, s.inputs ≠ .reset :: rest) :
    step s = .next (complete (dueResult s) s) := by
  rw [step, if_pos (completesNow_iff.2 ⟨h, hr⟩), runCommand_eq_complete]

theorem step_not_due {s : State} (h : s.inflight ≠ some 0) : step s = busCycle s :=
  if_neg fun hc => h (completesNow_iff.1 hc).1

/-- A reset takes effect whatever the command in flight. -/
theorem step_reset {s : State} {rest : List HostOp} (h : s.inputs = .reset :: rest) :
    step s = .next (applyReset rest s) := by
  rw [step, if_neg fun hc => (completesNow_iff.1 hc).2 rest h]
  simp [busCycle, h]

/-! The register map. -/

theorem regAt_offset (r : BusReg) : regAt r.offset = some r := by cases r <;> rfl

theorem readOffset_offset (s : State) (r : BusReg) : readOffset s r.offset = readReg s r := by
  cases r <;> rfl

theorem writeOffset_offset (r : BusReg) (v : Word) (s : State) :
    writeOffset r.offset v s = writeReg r v s := by
  cases r <;> rfl

/-! A bus access. -/

theorem access_outside {a : Access} {s : State} (h : inAperture s.params a.addr = false) :
    access a s = .next (answer .none s) := by
  simp [access, h]

theorem access_bad {a : Access} {s : State} (h : inAperture s.params a.addr = true)
    (ha : wordAligned s.params a = false) : access a s = .fault .busError := by
  simp [access, h, ha]

theorem access_read {a : Access} {s : State} (h : inAperture s.params a.addr = true)
    (ha : wordAligned s.params a = true) (hop : a.op = .read) :
    access a s = .next (answer (.data (readOffset s (a.addr - s.params.base))) s) := by
  simp [access, h, ha, hop]

theorem access_write {a : Access} {s : State} {v : Word} (h : inAperture s.params a.addr = true)
    (ha : wordAligned s.params a = true) (hop : a.op = .write v) :
    access a s =
      .next (answer .ack (writeOffset (a.addr - s.params.base) v s)) := by
  simp [access, h, ha, hop]

/-- A 32-bit access to an aligned offset of the aperture. -/
theorem access_read_at {s : State} {off : Nat} (hoff : off < 64) (hal : off % 4 = 0) :
    access { addr := s.params.base + off, bytes := 4, op := .read } s =
      .next (answer (.data (readOffset s off)) s) := by
  have h1 : inAperture s.params (s.params.base + off) = true := by
    simp [inAperture]; omega
  simp [access, h1, wordAligned, hal]

theorem access_write_at {s : State} {off : Nat} (v : Word) (hoff : off < 64) (hal : off % 4 = 0) :
    access { addr := s.params.base + off, bytes := 4, op := .write v } s =
      .next (answer .ack (writeOffset off v s)) := by
  have h1 : inAperture s.params (s.params.base + off) = true := by
    simp [inAperture]; omega
  simp [access, h1, wordAligned, hal]

/-- Everything an access that does not fault can do. -/
theorem access_cases {a : Access} {s t : State} (h : access a s = .next t) :
    (inAperture s.params a.addr = false ∧ t = answer .none s) ∨
    (inAperture s.params a.addr = true ∧ wordAligned s.params a = true ∧
      ((a.op = .read ∧ t = answer (.data (readOffset s (a.addr - s.params.base))) s) ∨
       ∃ v, a.op = .write v ∧
        t = answer .ack (writeOffset (a.addr - s.params.base) v s))) := by
  cases hin : inAperture s.params a.addr with
  | false => rw [access_outside hin] at h; left; simp_all
  | true =>
    cases hal : wordAligned s.params a with
    | false => rw [access_bad hin hal] at h; cases h
    | true =>
      right
      cases hop : a.op with
      | read => rw [access_read hin hal hop] at h; simp_all
      | write v => rw [access_write hin hal hop] at h; simp_all

/-- An access inside the aperture that is a whole aligned word is an access to one of its sixteen
offsets. -/
theorem aligned_offset {p : Params} {a : Access} (h : inAperture p a.addr = true)
    (ha : wordAligned p a = true) :
    a = { addr := p.base + (a.addr - p.base), bytes := 4, op := a.op } ∧ a.addr - p.base < 64 ∧
      (a.addr - p.base) % 4 = 0 := by
  obtain ⟨addr, bytes, op⟩ := a
  simp [inAperture, wordAligned] at h ha
  refine ⟨?_, ?_, ha.2⟩
  · simp only [Access.mk.injEq, and_true]; exact ⟨by omega, ha.1⟩
  · show addr - p.base < 64
    omega

/-- Everything a step that gives a next state can do. -/
theorem step_cases {s t : State} (h : step s = .next t) :
    (s.inflight = some 0 ∧ (∀ rest, s.inputs ≠ .reset :: rest) ∧ t = complete (dueResult s) s) ∨
    (∃ rest, s.inputs = .reset :: rest ∧ t = applyReset rest s) ∨
    (s.inflight ≠ some 0 ∧
      ((s.inputs = [] ∧ t = answer .none (tick s)) ∨
       (∃ rest, s.inputs = .idle :: rest ∧ t = answer .none (dequeue rest (tick s))) ∨
       (∃ rest, s.inputs = .wait :: rest ∧ t = poll rest (tick s)) ∨
       (∃ a rest, s.inputs = .access a :: rest ∧ access a (dequeue rest (tick s)) = .next t)))
    := by
  by_cases hr : ∃ rest, s.inputs = .reset :: rest
  · obtain ⟨rest, hr⟩ := hr
    rw [step_reset hr] at h
    exact .inr (.inl ⟨rest, hr, (Host.Outcome.next.inj h).symm⟩)
  · have hr : ∀ rest, s.inputs ≠ .reset :: rest := fun rest h => hr ⟨rest, h⟩
    by_cases hd : s.inflight = some 0
    · rw [step_due hd hr] at h
      exact .inl ⟨hd, hr, (Host.Outcome.next.inj h).symm⟩
    · refine .inr (.inr ⟨hd, ?_⟩)
      rw [step_not_due hd] at h
      unfold busCycle at h
      split at h <;> simp_all

/-- The access of such a step taken apart: an access outside the aperture, a read of an aligned offset,
a write to one. -/
theorem step_access_cases {s t : State} {a : Access} {rest : List HostOp}
    (h : access a (dequeue rest (tick s)) = .next t) :
    (inAperture s.params a.addr = false ∧
      t = answer .none (dequeue rest (tick s))) ∨
    ∃ off, off < 64 ∧ off % 4 = 0 ∧
      ((a = { addr := s.params.base + off, bytes := 4, op := .read } ∧
        t = answer (.data (readOffset (dequeue rest (tick s)) off)) (dequeue rest (tick s))) ∨
       ∃ v, a = { addr := s.params.base + off, bytes := 4, op := .write v } ∧
        t = answer .ack (writeOffset off v (dequeue rest (tick s)))) := by
  rcases access_cases h with ⟨hin, ht⟩ | ⟨hin, hal, hrw⟩
  · exact .inl ⟨hin, ht⟩
  · obtain ⟨ha, hlt, hmod⟩ := aligned_offset hin hal
    refine .inr ⟨a.addr - s.params.base, hlt, hmod, ?_⟩
    rcases hrw with ⟨hop, ht⟩ | ⟨v, hop, ht⟩
    · left; rw [hop] at ha; exact ⟨ha, ht⟩
    · right; rw [hop] at ha; exact ⟨v, ha, ht⟩

/-- Everything a write to an offset can do. -/
theorem writeOffset_cases (off : Nat) (v : Word) (s : State) :
    (off = 0x00 ∧ s.busy = true ∧ writeOffset off v s = { s with overrun := true }) ∨
    (off = 0x00 ∧ s.busy = false ∧ writeOffset off v s = accept v s) ∨
    (off = 0x04 ∧ writeOffset off v s =
      { s with done := s.done && !v.getLsbD 1, overrun := s.overrun && !v.getLsbD 2 }) ∨
    (off = 0x08 ∧ writeOffset off v s = { s with ien := v.getLsbD 0 }) ∨
    (off = 0x10 ∧ writeOffset off v s = { s with opa := v }) ∨
    (off = 0x14 ∧ writeOffset off v s = { s with opb := v }) ∨
    (off = 0x18 ∧ writeOffset off v s = { s with opc := v }) ∨
    (off = 0x1C ∧ writeOffset off v s = { s with opd := v }) ∨
    (off ∉ [0x00, 0x04, 0x08, 0x10, 0x14, 0x18, 0x1C] ∧ writeOffset off v s = s) := by
  by_cases h0 : off = 0x00
  · subst h0
    cases hb : s.busy
    · exact .inr (.inl ⟨rfl, rfl, by simp [writeOffset, regAt, writeReg, hb]⟩)
    · exact .inl ⟨rfl, rfl, by simp [writeOffset, regAt, writeReg, hb]⟩
  · refine .inr (.inr ?_)
    unfold writeOffset regAt
    split
    · rename_i r hr
      split at hr <;> cases hr <;> simp_all [writeReg]
    · rename_i hr
      split at hr <;> simp_all

/-! A cycle of the bus, from the host's action. -/

theorem step_read {s : State} {off : Nat} {rest : List HostOp} (hd : s.inflight ≠ some 0)
    (h : s.inputs = .access { addr := s.params.base + off, bytes := 4, op := .read } :: rest)
    (hoff : off < 64) (hal : off % 4 = 0) :
    step s = .next (answer (.data (readOffset (dequeue rest (tick s)) off)) (dequeue rest (tick s))) := by
  rw [step_not_due hd]
  simp only [busCycle, h]
  exact access_read_at (s := dequeue rest (tick s)) hoff hal

theorem step_write {s : State} {off : Nat} {v : Word} {rest : List HostOp}
    (hd : s.inflight ≠ some 0)
    (h : s.inputs = .access { addr := s.params.base + off, bytes := 4, op := .write v } :: rest)
    (hoff : off < 64) (hal : off % 4 = 0) :
    step s = .next (answer .ack (writeOffset off v (dequeue rest (tick s)))) := by
  rw [step_not_due hd]
  simp only [busCycle, h]
  exact access_write_at (s := dequeue rest (tick s)) v hoff hal

end Sys2Proof.Machine
end

