-- ==== Sys2Proof/Laws/Operands.lean ====
section
/-! SUPPORT. The facts about the span of a mask (41_bitfield.md R100), operand fields (30_encoding.md
R74) and the number primitives (00_scope.md R13, R14) that proofs cite instead of unfolding them. -/

namespace Sys2Proof.Machine

/-! The span of a mask. -/

/-- The lowest and the highest set bit of a mask that is not empty: both are set, in this order, and
every set bit lies between them. -/
theorem lowest_highest_spec : ∀ m : Byte, m ≠ 0 →
    lowest m ≤ highest m ∧ highest m < 8 ∧ m.toNat.testBit (lowest m) = true ∧
      m.toNat.testBit (highest m) = true ∧
      ∀ k, k < 8 → m.toNat.testBit k = true → lowest m ≤ k ∧ k ≤ highest m := by
  decide

theorem width_spec {m : Byte} (h : m ≠ 0) :
    width m = highest m - lowest m + 1 ∧ width m ≤ 8 ∧ lowest m + width m ≤ 8 := by
  obtain ⟨h1, h2, -⟩ := lowest_highest_spec m h
  unfold width
  omega

theorem span_toNat : ∀ m : Byte, m ≠ 0 → (span m).toNat = (2 ^ width m - 1) * 2 ^ lowest m := by
  decide

theorem ones_toNat {n : Nat} (h : n ≤ 8) : (ones n).toNat = 2 ^ n - 1 := by
  interval_cases n <;> decide

/-- FEXT's field as arithmetic: the byte shifted down to the lowest bit, modulo the width. -/
theorem extractField_toNat (byte : Byte) {mask : Byte} (h : mask ≠ 0) :
    (extractField byte mask).toNat = byte.toNat / 2 ^ lowest mask % 2 ^ width mask := by
  rw [extractField, BitVec.toNat_and, ones_toNat (width_spec h).2.1, BitVec.toNat_ushiftRight,
    Nat.shiftRight_eq_div_pow, Nat.and_two_pow_sub_one_eq_mod]

/-! Operand fields. -/

theorem byteOperand_toNat (a : Word) : (byteOperand a).toNat = a.toNat % 256 := by
  simp [byteOperand]

theorem maskOperand_toNat (b : Word) : (maskOperand b).toNat = b.toNat % 256 := by
  simp [maskOperand]

theorem modOperand_toNat (d : Word) : (modOperand d).toNat = d.toNat % 8 := by
  simp [modOperand]

theorem drwE_eq (a : Word) : drwE a = a.toNat % 16 := by
  simp [drwE]

theorem drwM_eq (a : Word) : drwM a = a.toNat / 2 ^ 8 % 256 := by
  simp [drwM, Nat.shiftRight_eq_div_pow]

theorem devE_byteOperand (a : Word) : devE (byteOperand a) = a.toNat / 2 ^ 4 % 8 := by
  simp [devE, byteOperand, Nat.shiftRight_eq_div_pow]

theorem devM_byteOperand (a : Word) : devM (byteOperand a) = a.toNat % 8 := by
  simp [devM, byteOperand]

theorem zext32_eq (b : Byte) : zext32 b = BitVec.ofNat 32 b.toNat := by
  rw [← BitVec.toNat_inj]
  simp [zext32]

/-! Number primitives. -/

/-- When a rounded quotient reaches `n`. -/
theorem le_rhu {p q : Nat} (hq : 0 < q) (n : Nat) : n ≤ rhu p q ↔ 2 * n * q ≤ 2 * p + q := by
  rw [rhu, Nat.le_div_iff_mul_le (by omega), show n * (2 * q) = 2 * n * q by ring]

/-- A rounded quotient is within half a unit of the quotient. -/
theorem rhu_error {p q : Nat} (hq : 0 < q) :
    2 * rhu p q * q ≤ 2 * p + q ∧ 2 * p + q < 2 * (rhu p q + 1) * q := by
  refine ⟨(le_rhu hq _).1 le_rfl, ?_⟩
  by_contra h
  have := (le_rhu (p := p) hq (rhu p q + 1)).2 (by omega)
  omega

theorem sat32_toNat (v : Nat) : (sat32 v).toNat = min v (2 ^ 32 - 1) := by
  unfold sat32 saturates
  split <;> rename_i h <;> simp only [decide_eq_true_eq] at h
  · simp only [BitVec.toNat_ofNat]
    omega
  · simp only [BitVec.toNat_ofNat]
    omega

end Sys2Proof.Machine
end

