-- ==== Sys2Proof/Laws/PerInstr.lean ====
section
/-! SUPPORT. Statements for all instructions, one lemma a constructor. -/

namespace Sys2Proof.Laws.EncodingFields

/-- The opcode column of the table of 30_encoding.md R71. -/
def tableOpcode : Instr → Nat
  | .nop => 0x00
  | .fext => 0x01
  | .fins => 0x02
  | .vbits => 0x03
  | .ffbit => 0x04
  | .drenc => 0x10
  | .drdec => 0x11
  | .dvenc => 0x12
  | .dvdec => 0x13
  | .valid => 0x20

/-- The command is well-formed, and its word is the table's match value: OPC, bits [7:0], is the table's
opcode and RSV, bits [31:8], is 0 (30_encoding.md R70, R71). -/
def Statement (i : Instr) : Prop :=
  i.wf = true ∧ (opcField (encode i)).toNat = tableOpcode i ∧ rsvField (encode i) = 0 ∧
    (encode i).toNat = tableOpcode i

theorem nop : Statement .nop := by unfold Statement; decide

theorem fext : Statement .fext := by unfold Statement; decide

theorem fins : Statement .fins := by unfold Statement; decide

theorem vbits : Statement .vbits := by unfold Statement; decide

theorem ffbit : Statement .ffbit := by unfold Statement; decide

theorem drenc : Statement .drenc := by unfold Statement; decide

theorem drdec : Statement .drdec := by unfold Statement; decide

theorem dvenc : Statement .dvenc := by unfold Statement; decide

theorem dvdec : Statement .dvdec := by unfold Statement; decide

theorem valid : Statement .valid := by unfold Statement; decide

end Sys2Proof.Laws.EncodingFields
end

