-- ==== Sys2Proof/Laws/Quantizer.lean ====
section
/-! SUPPORT. What the searches of the quantizer answer: the first candidate of least error, in the
order of the search (42_quantizer.md R131, R134). -/

namespace Sys2Proof.Machine

/-- `b` is the first candidate of least error of the list. -/
def FirstLeast (l : List Candidate) (b : Candidate) : Prop :=
  ∃ before after, l = before ++ b :: after ∧ (∀ c ∈ before, b.err < c.err) ∧
    ∀ c ∈ after, b.err ≤ c.err

theorem better_cases (b c : Candidate) :
    (c.err < b.err ∧ better (some b) c = some c) ∨ (b.err ≤ c.err ∧ better (some b) c = some b) := by
  by_cases h : c.err < b.err
  · exact .inl ⟨h, by simp [better, h]⟩
  · exact .inr ⟨by omega, by simp [better, h]⟩

/-- Going on from a best candidate so far keeps a first candidate of least error. -/
theorem foldl_better_some (l : List Candidate) (b : Candidate) :
    ∃ c, l.foldl better (some b) = some c ∧ FirstLeast (b :: l) c := by
  induction l generalizing b with
  | nil => exact ⟨b, rfl, [], [], rfl, by simp, by simp⟩
  | cons a l ih =>
    obtain ⟨h, e⟩ | ⟨h, e⟩ := better_cases b a
    · obtain ⟨c, hc, before, after, hl, hb, ha⟩ := ih a
      refine ⟨c, by rw [List.foldl_cons, e, hc], b :: before, after, by rw [hl]; rfl, ?_, ha⟩
      have hca : c.err ≤ a.err := by
        cases before with
        | nil => simp only [List.nil_append, List.cons.injEq] at hl; rw [hl.1]
        | cons x xs =>
          simp only [List.cons_append, List.cons.injEq] at hl
          have := hb x (by simp)
          rw [hl.1]; omega
      simp only [List.mem_cons, forall_eq_or_imp]
      exact ⟨by omega, hb⟩
    · obtain ⟨c, hc, before, after, hl, hb, ha⟩ := ih b
      refine ⟨c, by rw [List.foldl_cons, e, hc], ?_⟩
      cases before with
      | nil =>
        simp only [List.nil_append, List.cons.injEq] at hl
        refine ⟨[], a :: l, by rw [hl.1]; rfl, by simp, ?_⟩
        simp only [List.mem_cons, forall_eq_or_imp]
        exact ⟨by rw [← hl.1]; exact h, by rw [hl.2]; exact ha⟩
      | cons x xs =>
        simp only [List.cons_append, List.cons.injEq] at hl
        have hx := hb x (by simp)
        refine ⟨b :: a :: xs, after, by rw [hl.2]; rfl, ?_, ha⟩
        simp only [List.mem_cons, forall_eq_or_imp]
        refine ⟨by rw [hl.1]; exact hx, by rw [← hl.1] at hx; omega, fun y hy => hb y (by simp [hy])⟩

/-- A search over a list that is not empty answers its first candidate of least error. -/
theorem foldl_better_none (l : List Candidate) (h : l ≠ []) :
    ∃ c, l.foldl better none = some c ∧ FirstLeast l c := by
  cases l with
  | nil => contradiction
  | cons b l => exact foldl_better_some l b

theorem FirstLeast.mem {l : List Candidate} {b : Candidate} (h : FirstLeast l b) : b ∈ l := by
  obtain ⟨before, after, rfl, -, -⟩ := h
  simp

theorem FirstLeast.le {l : List Candidate} {b c : Candidate} (h : FirstLeast l b) (hc : c ∈ l) :
    b.err ≤ c.err := by
  obtain ⟨before, after, rfl, hb, ha⟩ := h
  simp only [List.mem_append, List.mem_cons] at hc
  obtain hc | rfl | hc := hc
  · exact (hb c hc).le
  · exact le_rfl
  · exact ha c hc

/-- In a list sorted by `lt`, a candidate `lt` the answer has a greater error. -/
theorem FirstLeast.lt {l : List Candidate} {b c : Candidate} {lt : Candidate → Candidate → Prop}
    (h : FirstLeast l b) (hc : c ∈ l) (hs : l.Pairwise lt) (hcb : lt c b)
    (asymm : ∀ x y, lt x y → ¬ lt y x) : b.err < c.err := by
  obtain ⟨before, after, rfl, hb, ha⟩ := h
  simp only [List.mem_append, List.mem_cons] at hc
  obtain hc | rfl | hc := hc
  · exact hb c hc
  · exact absurd hcb (asymm _ _ hcb)
  · exfalso
    rw [List.pairwise_append] at hs
    exact asymm _ _ hcb ((List.pairwise_cons.1 hs.2.1).1 c hc)

/-- The data-rate search is a search over the candidates the exponents offer, ascending. -/
theorem rateSearch_eq (f r : Nat) :
    rateSearch f r = ((List.range 16).filterMap (rateCandidate f r)).foldl better none := by
  rw [List.foldl_filterMap, rateSearch]
  congr 1
  funext best e
  cases rateCandidate f r e <;> rfl

/-- The deviation search is a search over the 64 candidates, E outer and M inner. -/
theorem devSearch_eq (f dv : Nat) :
    devSearch f dv =
      ((List.range 8).flatMap fun e => (List.range 8).map (devCandidate f dv e)).foldl better none := by
  rw [List.foldl_flatMap]
  simp only [List.foldl_map]
  rfl

/-- What an exponent offers (42_quantizer.md R131). -/
theorem rateCandidate_eq_some {f r e : Nat} {c : Candidate} :
    rateCandidate f r e = some c ↔
      c.e = e ∧ c.m < 256 ∧ 256 + c.m = rhu (r * 2 ^ (28 - e)) (1000 * f) ∧
        c.err = absDiff (rateScaled f e c.m) (r * 2 ^ 28) := by
  obtain ⟨ce, cm, cerr⟩ := c
  unfold rateCandidate
  dsimp only
  split
  · rename_i h
    simp only [Option.some.injEq, Candidate.mk.injEq]
    constructor
    · rintro ⟨rfl, rfl, rfl⟩
      exact ⟨rfl, by omega, by omega, rfl⟩
    · rintro ⟨rfl, h1, h2, rfl⟩
      have : rhu (r * 2 ^ (28 - ce)) (1000 * f) - 256 = cm := by omega
      exact ⟨rfl, this, by rw [this]⟩
  · rename_i h
    simp only [reduceCtorEq, false_iff, not_and]
    intro _ h1 h2
    omega

/-- A candidate of the data-rate search. -/
theorem mem_rateCandidates {f r : Nat} {c : Candidate} :
    c ∈ (List.range 16).filterMap (rateCandidate f r) ↔
      c.e < 16 ∧ rateCandidate f r c.e = some c := by
  simp only [List.mem_filterMap, List.mem_range]
  constructor
  · rintro ⟨e, he, hc⟩
    obtain rfl := (rateCandidate_eq_some.1 hc).1
    exact ⟨he, hc⟩
  · rintro ⟨he, hc⟩
    exact ⟨c.e, he, hc⟩

/-- A candidate of the deviation search. -/
theorem mem_devCandidates {f dv : Nat} {c : Candidate} :
    c ∈ ((List.range 8).flatMap fun e => (List.range 8).map (devCandidate f dv e)) ↔
      c.e < 8 ∧ c.m < 8 ∧ c = devCandidate f dv c.e c.m := by
  simp only [List.mem_flatMap, List.mem_map, List.mem_range]
  constructor
  · rintro ⟨e, he, m, hm, rfl⟩
    exact ⟨he, hm, rfl⟩
  · rintro ⟨he, hm, hc⟩
    exact ⟨c.e, he, c.m, hm, hc.symm⟩

/-- The deviation search always has an answer: the first candidate of least error. -/
theorem devSearch_spec (f dv : Nat) :
    ∃ c, devSearch f dv = some c ∧
      FirstLeast ((List.range 8).flatMap fun e => (List.range 8).map (devCandidate f dv e)) c := by
  rw [devSearch_eq]
  exact foldl_better_none _ (List.ne_nil_of_mem
    ((mem_devCandidates (c := devCandidate f dv 0 0)).2 ⟨by simp [devCandidate], by simp [devCandidate], rfl⟩))

/-- The data-rate search answers the first candidate of least error, or none if there is none. -/
theorem rateSearch_spec (f r : Nat) :
    (rateSearch f r = none ∧ ∀ e, e < 16 → rateCandidate f r e = none) ∨
    ∃ c, rateSearch f r = some c ∧ FirstLeast ((List.range 16).filterMap (rateCandidate f r)) c := by
  rw [rateSearch_eq]
  by_cases h : (List.range 16).filterMap (rateCandidate f r) = []
  · left
    rw [h]
    refine ⟨rfl, fun e he => ?_⟩
    rw [List.filterMap_eq_nil_iff] at h
    exact h e (List.mem_range.2 he)
  · right
    exact foldl_better_none _ h

end Sys2Proof.Machine
end

