-- ==== Sys2Proof/Tests/Slice0.lean ====
section
/-! SUPPORT. The model's own tests. Expected values are the spec's: a vector's name (V-…, spec/95_test_vectors.md)
stands beside each, or the rule. Then a witness for the hypotheses of every statement that has some. -/

namespace Sys2Proof.Tests

open Sys2Proof.Machine Sys2Proof.Claims

/-! ## Helpers -/

/-- The fixture catalog of 95_test_vectors.md §2.1, with one field in the last register. -/
def fixture : Catalog :=
  List.replicate 16 [] ++ [[0xC0, 0x30, 0x0F], [0x80, 0x70, 0x0F], [], [0x01]] ++
    List.replicate 26 [] ++ [[0x80]]

/-- Latencies in the ranges 70_reset_and_hazards.md R220 suggests. -/
def latencies : Latencies where
  nop := 1
  fext := 1
  fins := 1
  vbits := 1
  ffbit := 1
  drenc := 16
  drdec := 2
  dvenc := 64
  dvdec := 2
  valid := 3
  illegal := 1

/-- F = 26 MHz and the fixture catalog, as the vectors of 95_test_vectors.md assume. -/
def params : Params where
  fXosc := 26000000
  catalog := fixture
  latency := latencies
  base := 0x4000

/-- The block after reset, with the host's next actions. -/
def idle (ops : List HostOp) : State := State.resetWith params ops

/-- The command word `w` in flight and due, with the snapshot A, B, C, D. -/
def due (w a b c d : Word) : State :=
  { idle [] with cmd := w, snapA := a, snapB := b, snapC := c, snapD := d, inflight := some 0 }

/-- The command word `w` in flight, `k` cycles before its completion is due. -/
def running (w : Word) (k : Nat) (ops : List HostOp) : State :=
  { idle ops with cmd := w, snapA := 0, snapB := 0, snapC := 0, snapD := 0, inflight := some k }

/-- A 32-bit access at an offset of the aperture. -/
def busAt (off : Nat) (op : BusOp) : HostOp := .access { addr := 0x4000 + off, bytes := 4, op := op }

/-- The state after an outcome. -/
def state? : Host.Outcome State Fault Refusal → Option State
  | .next s => some s
  | .fault _ => none
  | .refused _ => none

/-- What a step leaves in RES0, RES1, RES2 and STATUS. -/
def results (s : State) : Option (Word × Word × Word × Word) :=
  (state? (step s)).map fun t => (t.res0, t.res1, t.res2, t.statusWord)

/-- What one step leaves of a part of the state. -/
def look {α : Type} (f : State → α) (s : State) : Option α := (state? (step s)).map f

/-! ## Decoding (30_encoding.md R70, R71): RSV [31:8] zero, then OPC [7:0] bit by bit -/

theorem test_decode_nop : decode (0b000000000000000000000000_00000000#32) = .ok .nop := by decide
theorem test_decode_fext : decode (0b000000000000000000000000_00000001#32) = .ok .fext := by decide
theorem test_decode_fins : decode (0b000000000000000000000000_00000010#32) = .ok .fins := by decide
theorem test_decode_vbits : decode (0b000000000000000000000000_00000011#32) = .ok .vbits := by decide
theorem test_decode_ffbit : decode (0b000000000000000000000000_00000100#32) = .ok .ffbit := by decide
theorem test_decode_drenc : decode (0b000000000000000000000000_00010000#32) = .ok .drenc := by decide
theorem test_decode_drdec : decode (0b000000000000000000000000_00010001#32) = .ok .drdec := by decide
theorem test_decode_dvenc : decode (0b000000000000000000000000_00010010#32) = .ok .dvenc := by decide
theorem test_decode_dvdec : decode (0b000000000000000000000000_00010011#32) = .ok .dvdec := by decide
theorem test_decode_valid : decode (0b000000000000000000000000_00100000#32) = .ok .valid := by decide

/-- 30_encoding.md R72: the corners of the illegal opcode ranges, and RSV with one bit set. -/
theorem test_decode_illegal :
    ([0x05, 0x0F, 0x14, 0x1F, 0x21, 0xFF].all fun w => decode w == .error .opcodeUndefined) = true ∧
      ([0x101, 0x80000020, 0x100].all fun w => decode w == .error .reservedNotZero) = true := by
  decide

theorem test_decodeTableWord : decodeTableWord 32 0x11 = some .drdec ∧ decodeTableWord 8 0x20 = some .valid ∧
    decodeTableWord 32 0x05 = none := by decide

/-! ## Well-formedness (10_state.md R30, 00_scope.md R5, R7, R8): an ill-formed term for each check -/

theorem test_wf_accepts : Params.wf params = true := by decide
theorem test_wf_refuses_46_registers : Catalog.wf (fixture.drop 1) = false := by decide
theorem test_wf_refuses_nine_fields :
    Catalog.entryWf [0x01, 0x02, 0x04, 0x08, 0x10, 0x20, 0x40, 0x80, 0x01] = false := by decide
theorem test_wf_refuses_empty_mask : Catalog.entryWf [0xC0, 0x00] = false := by decide
theorem test_wf_refuses_overlap : Catalog.entryWf [0xC0, 0x40] = false := by decide
theorem test_wf_refuses_gap : Catalog.entryWf [0x81] = false := by decide
theorem test_wf_isRun : Mask.isRun 0xFF = true ∧ Mask.isRun 0x38 = true ∧ Mask.isRun 0x28 = false := by decide
theorem test_wf_disjoint : Mask.disjoint [0xF0, 0x0F] = true ∧ Mask.disjoint [0xF0, 0x1F] = false := by decide
theorem test_wf_refuses_slow_crystal : Params.wf { params with fXosc := 999999 } = false := by decide
theorem test_wf_refuses_fast_crystal : Params.wf { params with fXosc := 64000001 } = false := by decide
theorem test_wf_refuses_no_latency : Params.wf { params with latency.dvenc := 0 } = false := by decide
theorem test_wf_refuses_misaligned_base : Params.wf { params with base := 0x4020 } = false := by decide

/-! ## One completion of each command -/

/-- V-CMD-02. -/
theorem test_nop : results (due 0x00 1 2 3 4) = some (0, 0, 0, 0x00000002) := by decide
/-- V-CMD-03. -/
theorem test_illegal_opcode : results (due 0xFF 1 2 3 4) = some (0, 0, 0, 0xFF00000A) := by decide
/-- V-CMD-04. -/
theorem test_illegal_reserved : results (due 0x101 1 2 3 4) = some (0, 0, 0, 0x0100000A) := by decide
/-- V-BF-09: A[31:8] and B[31:8] ignored. -/
theorem test_fext_high_bits : results (due 0x01 0x1FF 0x1C0 0 0) = some (3, 0, 0, 0x01000002) := by decide
/-- V-BF-07: NCONTIG. -/
theorem test_fext_gap : results (due 0x01 0xA5 0x81 0 0) = some (0xA5, 0, 0, 0x01000202) := by decide
/-- V-BF-16: NCONTIG and VOVF. -/
theorem test_fins_both_flags : results (due 0x02 0xFF 0x81 0x1FF 0) = some (0xFF, 0, 0, 0x02000602) := by decide
/-- V-BF-13: VOVF, 5 mod 4. -/
theorem test_fins_truncates : results (due 0x02 0xC8 0x30 5 0) = some (0xD8, 0, 0, 0x02000402) := by decide
/-- V-BF-25. -/
theorem test_vbits_reserved_bits : results (due 0x03 0x13 0 0 0) = some (1, 0, 0, 0x03000002) := by decide
/-- V-BF-27: the address is read whole. -/
theorem test_vbits_no_alias : results (due 0x03 0x100 0 0 0) = some (0, 0, 0, 0x03000802) := by decide
/-- V-BF-30. -/
theorem test_ffbit_field : results (due 0x04 0x10 5 0 0) = some (0x101, 0, 0, 0x04000002) := by decide
/-- V-BF-38: both flags. -/
theorem test_ffbit_bad : results (due 0x04 0x2F 8 0 0) = some (0, 0, 0, 0x04001802) := by decide
/-- V-QZ-12. -/
theorem test_drenc : results (due 0x10 38383000 0 0 0) = some (0x830A, 38383484, 0, 0x10000002) := by decide
/-- V-QZ-02: NOCAND and DOM. -/
theorem test_drenc_no_candidate : results (due 0x10 24747 0 0 0) = some (0, 0, 0, 0x10006002) := by decide
/-- V-QZ-32. -/
theorem test_drdec : results (due 0x11 0x9308 0 0 0) = some (9992599, 0, 0, 0x11000002) := by decide
/-- V-QZ-35: the bits outside E and M ignored. -/
theorem test_drdec_high_bits : results (due 0x11 0xFFFFFFFF 0 0 0) = some (1621826172, 0, 0, 0x11000002) := by
  decide
/-- V-QZ-44a: just above a midpoint. -/
theorem test_dvenc_midpoint : results (due 0x12 1686097 0 0 0) = some (1, 1785278, 0, 0x12000002) := by decide
/-- V-QZ-54: a tie goes to the earlier pair. -/
theorem test_dvenc_tie :
    results { due 0x12 1088000 0 0 0 with params := { params with fXosc := 16777216 } } =
      some (0, 1024000, 0, 0x12004002) := by decide
/-- V-QZ-62. -/
theorem test_dvdec : results (due 0x13 0x34 0 0 0) = some (19042969, 0, 0, 0x13000002) := by decide
/-- V-QZ-66: bits 7 and 3 ignored. -/
theorem test_dvdec_high_bits : results (due 0x13 0x88 0 0 0) = some (1586914, 0, 0, 0x13000002) := by decide
/-- V-VAL-22: W6, W7, SAT. -/
theorem test_valid_saturates :
    results (due 0x20 0xFFFFFFFF 0xFFFFFFFF 0xFFFFFFFF 4) =
      some (0x00020000, 0xFFFFFFFF, 0x00062060, 0x20008002) := by decide
/-- V-VAL-20: the index is exactly 3/10, W3 and not W2. -/
theorem test_valid_threshold :
    results (due 0x20 10000000 822000 5480000 0) = some (0x4CCD, 7124000, 0x00031004, 0x20000002) := by decide

/-! ## The bus -/

/-- 40_command.md R90, and the latency 16 of DRENC: 15 more cycles of the bus before it is due. -/
theorem test_accept :
    look (fun t => (t.cmd, t.snapA, t.inflight, t.statusWord))
      { idle [busAt 0x00 (.write 0x10)] with opa := 5, done := true, overrun := true, lastop := 0x20, flags.sat := true } =
      some (0x10, 5, some 15, 0x20000005) := by decide
/-- V-CMD-06: a CMD write while busy. -/
theorem test_overrun :
    look (fun t => (t.cmd, t.inflight, t.statusWord)) (running 0x12 7 [busAt 0x00 (.write 0x13)]) =
      some (0x12, some 6, 0x00000005) := by decide
/-- V-CMD-07: write 1 to clear. -/
theorem test_status_w1c :
    look State.statusWord
      { idle [busAt 0x04 (.write 0xFFFFFFFF)] with done := true, overrun := true, lastop := 0x12 } =
      some 0x12000000 := by decide
/-- V-CMD-09. -/
theorem test_ctrl : look State.ctrlWord (idle [busAt 0x08 (.write 0xFFFFFFFF)]) = some 1 := by decide
/-- V-CMD-11: IRQ rises at the CTRL write. -/
theorem test_irq_on_enable :
    look State.irq { idle [busAt 0x08 (.write 1)] with done := true } = some true := by decide
/-- V-CMD-12: a write to RES0 is ignored; FXOSC reads F. -/
theorem test_read_only :
    look (fun t => (t.res0, t.response)) (idle [busAt 0x20 (.write 0x1234)]) = some (0, .ack) ∧
      look State.response (idle [busAt 0x0C .read]) = some (.data 0x018CBA80) := by decide
/-- V-CMD-13. -/
theorem test_reserved_offset : look State.response (idle [busAt 0x2C .read]) = some (.data 0) := by decide
/-- V-CMD-14: an 8-bit write at 0x10, a 32-bit read at 0x12. -/
theorem test_bus_error :
    step (idle [.access { addr := 0x4010, bytes := 1, op := .write 1 }]) = .fault .busError ∧
      step (idle [busAt 0x12 .read]) = .fault .busError := ⟨rfl, rfl⟩
/-- 20_memory.md R64: the first address past the aperture. -/
theorem test_outside : look State.response (idle [busAt 0x40 .read]) = some .none := by decide
/-- V-CMD-16: reset with VBITS in flight. -/
theorem test_reset_aborts :
    look (fun t => (t.cmd, t.inflight, t.statusWord, t.opa))
      { running 0x03 3 [.reset] with opa := 0x10 } = some (0, none, 0, 0) := by decide
/-- 70_reset_and_hazards.md R211: the same in the cycle in which the completion is due; no DONE, no IRQ. -/
theorem test_reset_aborts_due :
    look (fun t => (t.cmd, t.inflight, t.statusWord, t.res0, t.irq))
      { running 0x02 0 [.reset] with snapA := 0xFF, ien := true } = some (0, none, 0, 0, false) := by decide
/-- 20_memory.md R53: lane 0 carries bits [7:0]. -/
theorem test_lanes :
    (readLane { idle [] with opa := 0x11223344 } 0x10 0, readLane { idle [] with opa := 0x11223344 } 0x10 3) =
      (0x44, 0x11) := by decide

/-! ## Witnesses: for each statement with hypotheses, states and operands that meet them together -/

theorem witness_EncodeThenDecode : decode 0x00000013#32 = .ok .dvdec := by decide

theorem witness_ByteLanes : (0 : Nat) < 4 ∧ (3 : Nat) < 4 := by decide

theorem due_is_due (w a b c d : Word) : Due (due w a b c d) := ⟨rfl, by rintro rest ⟨⟩⟩

/-- Not due: a count of 1, nothing in flight, a reset in the cycle of the completion. -/
theorem witness_StepRunsTheCommandThatIsDue :
    (Due (due 0x11 1 0 0 0) ∧ decode (due 0x11 1 0 0 0).cmd = .ok .drdec) ∧
      ¬ Due (running 0x11 1 []) ∧ ¬ Due (idle []) ∧ ¬ Due (running 0x11 0 [.reset]) := by
  refine ⟨⟨due_is_due _ _ _ _ _, by decide⟩, ?_, ?_, ?_⟩
  · rintro ⟨⟨⟩, -⟩
  · rintro ⟨⟨⟩, -⟩
  · rintro ⟨-, h⟩
    exact h [] rfl

theorem witness_FetchWordRunsAsTheNextStep : decodeTableWord 32 0x20 = some .valid := by decide

/-- The second state of the witness of CompletionDepends…: the first with everything else changed. -/
def otherDue : State :=
  { due 0x10 600000 1 2 3 with opa := 7, res0 := 9, overrun := true, lastop := 4, ien := true, inputs := [.idle] }

theorem witness_CompletionDependsOnWordSnapshotAndParametersOnly :
    (Due (due 0x10 600000 1 2 3) ∧ Due otherDue) ∧
      (due 0x10 600000 1 2 3).cmd = otherDue.cmd ∧ (due 0x10 600000 1 2 3).snapA = otherDue.snapA ∧
      (due 0x10 600000 1 2 3).snapB = otherDue.snapB ∧ (due 0x10 600000 1 2 3).snapC = otherDue.snapC ∧
      (due 0x10 600000 1 2 3).snapD = otherDue.snapD ∧
      (due 0x10 600000 1 2 3).params.fXosc = otherDue.params.fXosc ∧
      (due 0x10 600000 1 2 3).params.catalog = otherDue.params.catalog ∧
      (due 0x10 600000 1 2 3).flags = {} ∧ otherDue.flags = {} ∧ otherDue ≠ due 0x10 600000 1 2 3 :=
  ⟨⟨due_is_due _ _ _ _ _, rfl, by rintro rest ⟨⟩⟩, by decide⟩

theorem witness_OperandBitsNotListedAreIgnored :
    AgreeOnRead .nop 1 2 3 4 5 6 7 8 ∧ AgreeOnRead .fext 0xA5 0x81 0 0 0xFFA5 0x181 9 9 ∧
      AgreeOnRead .fins 0xA5 0x81 0x1FF 0 0x1A5 0x281 0x1FF 9 ∧ AgreeOnRead .vbits 46 0 0 0 46 1 1 1 ∧
      AgreeOnRead .ffbit 46 7 0 0 46 7 1 1 ∧ AgreeOnRead .drenc 600000 0 0 0 600000 1 1 1 ∧
      AgreeOnRead .drdec 0x830A 0 0 0 0xFFFF83FA 1 1 1 ∧ AgreeOnRead .dvenc 5 0 0 0 5 1 1 1 ∧
      AgreeOnRead .dvdec 0x47 0 0 0 0xFFFFFFCF 1 1 1 ∧ AgreeOnRead .valid 1 2 3 4 1 2 3 0xFFFFFFFC :=
  ⟨trivial, ⟨by decide, by decide⟩, ⟨by decide, by decide, rfl⟩, rfl, ⟨rfl, rfl⟩, rfl,
    ⟨by decide, by decide⟩, rfl, ⟨by decide, by decide⟩, ⟨rfl, rfl, rfl, by decide⟩⟩

theorem witness_CmdWriteWhileIdleIsAccepted :
    (idle [busAt 0x00 (.write 0x101), .idle]).inflight = none ∧
      Delivers (idle [busAt 0x00 (.write 0x101), .idle]) 0x00 (.write 0x101) [.idle] := ⟨rfl, rfl⟩

theorem witness_CmdWriteWhileBusyOnlySetsOverrun :
    (running 0x12 1 [busAt 0x00 (.write 0)]).inflight = some (0 + 1) ∧
      Delivers (running 0x12 1 [busAt 0x00 (.write 0)]) 0x00 (.write 0) [] := ⟨rfl, rfl⟩

theorem witness_IllegalWordCompletesWithIllegalOnly :
    Due (due 0x100 0 0 0 0) ∧ (due 0x100 0 0 0 0).cmd.toNat / 2 ^ 8 ≠ 0 ∧
      ([0x05, 0x0F, 0x14, 0x1F, 0x21, 0xFF].all fun w => decide ((due w 0 0 0 0).cmd.toNat % 2 ^ 8 ∉
        [0x00, 0x01, 0x02, 0x03, 0x04, 0x10, 0x11, 0x12, 0x13, 0x20])) = true :=
  ⟨due_is_due _ _ _ _ _, by decide⟩

theorem witness_NopOnlyCompletes : Due (due 0x00 1 2 3 4) ∧ (due 0x00 1 2 3 4).cmd = 0 :=
  ⟨due_is_due _ _ _ _ _, rfl⟩

/-- CausesOfEachCommand, DomainIsReportedInclusively, DecodingTheQuantizedWord…: flags clear, as acceptance
leaves them. -/
theorem witness_flags_clear : (due 0x02 0xFF 0x81 0x1FF 0).flags = {} := by decide

theorem witness_CompletionComesBeforeAWriteOfTheSameCycle :
    (running 0x03 0 [busAt 0x00 (.write 1)]).inflight = some 0 ∧
      Delivers (running 0x03 0 [busAt 0x00 (.write 1)]) 0x00 (.write 1) [] := ⟨rfl, rfl⟩

theorem witness_AcceptedCommandCompletes :
    (running 0x10 15 [.idle, .wait, busAt 0x00 (.write 0), busAt 0x40 .read]).inflight = some 15 ∧
      ∀ op ∈ [HostOp.idle, .wait, busAt 0x00 (.write 0), busAt 0x40 .read],
        HostOp.harmless params op = true := by decide

theorem witness_OperandWriteWhileBusyLeavesTheRunningCommand :
    (running 0x10 1 [busAt 0x10 (.write 5)]).inflight = some (0 + 1) ∧
      Delivers (running 0x10 1 [busAt 0x10 (.write 5)]) 0x10 (.write 5) [] ∧
      Delivers (running 0x10 1 [busAt 0x14 (.write 5)]) 0x14 (.write 5) [] ∧
      Delivers (running 0x10 1 [busAt 0x18 (.write 5)]) 0x18 (.write 5) [] ∧
      Delivers (running 0x10 1 [busAt 0x1C (.write 5)]) 0x1C (.write 5) [] := ⟨rfl, rfl, rfl, rfl, rfl⟩

/-- The span of a mask, checked on its eight bits. -/
theorem spanOf_of_check {m lo hi : Nat} (hm : m < 256) (h1 : lo ≤ hi) (h2 : hi < 8)
    (h3 : m.testBit lo = true) (h4 : m.testBit hi = true)
    (h5 : ∀ k, k < 8 → m.testBit k = true → lo ≤ k ∧ k ≤ hi) : SpanOf m lo hi := by
  refine ⟨h1, h2, h3, h4, fun k hk => h5 k ?_ hk⟩
  by_contra hc
  have hlt : m < 2 ^ k := lt_of_lt_of_le hm (Nat.pow_le_pow_right (n := 2) (by decide) (by omega : 8 ≤ k))
  rw [Nat.testBit_lt_two_pow hlt] at hk
  cases hk

/-- FEXT and FINS: the lowest and the highest single bit, a field, the full mask, a mask with a gap; and the
empty mask, under bits that are ignored. -/
theorem witness_FextExtractsTheSpanOfTheMask :
    SpanOf ((due 0x01 0 0x01 0 0).snapB.toNat % 256) 0 0 ∧ SpanOf ((due 0x01 0 0x180 0 0).snapB.toNat % 256) 7 7 ∧
      SpanOf ((due 0x01 0 0x30 0 0).snapB.toNat % 256) 4 5 ∧ SpanOf ((due 0x01 0 0xFF 0 0).snapB.toNat % 256) 0 7 ∧
      SpanOf ((due 0x01 0 0x81 0 0).snapB.toNat % 256) 0 7 ∧ (due 0x01 0 0x100 0 0).snapB.toNat % 256 = 0 := by
  refine ⟨?_, ?_, ?_, ?_, ?_, by decide⟩ <;>
    exact spanOf_of_check (by decide) (by decide) (by decide) (by decide) (by decide) (by decide)

/-- FINS: a value that just fits and one that just does not. -/
theorem witness_FinsReplacesTheSpanOfTheMask :
    SpanOf ((due 0x02 0xC8 0x30 3 0).snapB.toNat % 256) 4 5 ∧ (due 0x02 0xC8 0x30 3 0).snapC.toNat < 2 ^ (5 - 4 + 1) ∧
      (due 0x02 0xC8 0x30 4 0).snapC.toNat ≥ 2 ^ (5 - 4 + 1) ∧ (due 0x02 0xC8 0 4 0).snapB.toNat % 256 = 0 :=
  ⟨spanOf_of_check (by decide) (by decide) (by decide) (by decide) (by decide) (by decide), by decide, by decide,
    by decide⟩

theorem witness_VbitsIsTheUnionOfTheFields :
    Catalog.wf (due 0x03 46 0 0 0).params.catalog = true ∧ (due 0x03 46 0 0 0).snapA.toNat ≤ 46 ∧
      (due 0x03 47 0 0 0).snapA.toNat > 46 := by decide

theorem witness_FfbitFindsTheFirstFieldWithTheBit :
    Catalog.wf (due 0x04 46 7 0 0).params.catalog = true ∧
      ((due 0x04 47 7 0 0).snapA.toNat > 46 ∧ (due 0x04 46 8 0 0).snapB.toNat > 7) ∧
      (fixture[46]? = some [0x80] ∧ (∀ m ∈ [(0x80 : Byte)], m.getLsbD 0 = false) ∧ (0x80 : Byte).getLsbD 7 = true) ∧
      fixture[0x10]? = some [0xC0, 0x30, 0x0F] ∧ [(0xC0 : Byte), 0x30, 0x0F][2]? = some 0x0F ∧
      (0x0F : Byte).getLsbD 3 = true ∧ (0xC0 : Byte).getLsbD 3 = false ∧ (0x30 : Byte).getLsbD 3 = false := by
  decide

theorem witness_FextOfFinsIsTheValue :
    SpanOf ((due 0x02 0xC8 0x30 3 0).snapB.toNat % 256) 4 5 ∧ (due 0x02 0xC8 0x30 3 0).snapC.toNat < 2 ^ (5 - 4 + 1) ∧
      ∃ t, exec .fins (due 0x02 0xC8 0x30 3 0) = .next t :=
  ⟨spanOf_of_check (by decide) (by decide) (by decide) (by decide) (by decide) (by decide), by decide, _, rfl⟩

theorem witness_FinsKeepsBitsOutsideTheSpan :
    SpanOf ((due 0x01 0xC8 0x81 0 0).snapB.toNat % 256) 0 7 ∧ SpanOf ((due 0x01 0xC8 0x30 0 0).snapB.toNat % 256) 4 5 ∧
      ∃ u, exec .fext (due 0x01 0xC8 0x30 0 0) = .next u :=
  ⟨spanOf_of_check (by decide) (by decide) (by decide) (by decide) (by decide) (by decide),
    spanOf_of_check (by decide) (by decide) (by decide) (by decide) (by decide) (by decide), _, rfl⟩

/-- The lowest rate with a candidate has one, the rate below it has none (42_quantizer.md R132). -/
theorem witness_DrencPicksTheBestCandidate :
    Params.wf (due 0x10 24748 0 0 0).params = true ∧ RateCand 26000000 24748 0 0 ∧
      ¬ ∃ e m, RateCand 26000000 24747 e m := by
  refine ⟨by decide, ⟨by decide, by decide, by decide⟩, ?_⟩
  rintro ⟨e, m, he, -, h⟩
  interval_cases e <;> simp only [Nat.reduceMul, Nat.reducePow, Nat.reduceSub, Nat.reduceAdd, Nat.reduceDiv] at h <;>
    omega

theorem witness_DrencHasNoCandidateExactlyOutsideTheRange :
    Params.wf (due 0x10 24747 0 0 0).params = true ∧ (due 0x10 24747 0 0 0).flags = {} ∧
      (due 0x10 24747 0 0 0).params.fXosc = 26000000 ∧ (due 0x10 24747 0 0 0).snapA.toNat ≤ 24747 ∧
      (due 0x10 1623413086 0 0 0).snapA.toNat ≥ 1623413086 ∧ 600000 ≤ (due 0x10 600000 0 0 0).snapA.toNat ∧
      (due 0x10 500000000 0 0 0).snapA.toNat ≤ 500000000 := by decide

/-- DrdecIsTheRateOfThePair, DvdecIsTheDeviationOfTheByte, QuantizerResultsFitIn32Bits, and their boundary
crystals. -/
theorem witness_quantizer_params :
    Params.wf (due 0x11 0xFF0F 0 0 0).params = true ∧ (due 0x11 0xFF0F 0 0 0).flags = {} ∧
      Params.wf { params with fXosc := 1000000 } = true ∧ Params.wf { params with fXosc := 64000000 } = true ∧
      (15 < 16 ∧ 255 < 256) ∧ 7 < 8 := by decide

theorem witness_DvencPicksTheFirstBestPair :
    (26000000 : Nat) = (due 0x12 5 0 0 0).params.fXosc ∧ 5 = (due 0x12 5 0 0 0).snapA.toNat := by decide

theorem witness_DrencIsOptimalOverAllPairs :
    Params.wf (due 0x10 38383000 0 0 0).params = true ∧ (due 0x10 38383000 0 0 0).flags = {} ∧
      look (fun t => t.flags.nocand) (due 0x10 38383000 0 0 0) = some false := by decide

/-- A legal crystal and a deviation midway between (0,1) and (0,2): a tie (42_quantizer.md R137). -/
theorem witness_DvencIsOptimalAndTiesGoDown :
    Params.wf { params with fXosc := 16777216 } = true ∧ devErr 16777216 1216000 0 1 = devErr 16777216 1216000 0 2 ∧
      (due 0x12 5 0 0 0).params.fXosc = 26000000 ∧ (due 0x12 1088000 0 0 0).snapA = 1088000#32 := by
  refine ⟨by decide, ?_, by decide, by decide⟩
  unfold devErr dev
  norm_num [abs_of_pos, abs_of_neg]

/-- Both ends of the band in which two exponents offer a candidate (42_quantizer.md R140). -/
theorem witness_DrencCandidatesNeverTie :
    ((rateCandidate 26000000 50682068 10).isSome = true ∧ (rateCandidate 26000000 50682068 11).isSome = true) ∧
      ((rateCandidate 26000000 50731658 10).isSome = true ∧ (rateCandidate 26000000 50731658 11).isSome = true) ∧
      Params.wf (due 0x10 50700000 0 0 0).params = true ∧ (due 0x10 50700000 0 0 0).params.fXosc = 26000000 ∧
      (due 0x10 50700000 0 0 0).snapA = 50700000#32 ∧
      (rateCandidate 26000000 50700000 10).isSome = true ∧ (rateCandidate 26000000 50700000 11).isSome = true := by
  decide

theorem witness_DecodingTheQuantizedWordGivesTheAchievedValue :
    (due 0x10 600000 0 0 0).flags = {} ∧ look (fun t => t.flags.nocand) (due 0x10 600000 0 0 0) = some false := by
  decide

/-- Each case of the index: OOK, rate 0, deviation 0, a quotient. -/
theorem witness_ValidReportsIndexAndSuggestedBandwidth :
    3 = (due 0x20 1 1 1 0xFFFFFFFB).snapD.toNat % 8 ∧ 0 = (due 0x20 1 1 0 0).snapC.toNat ∧
      0 = (due 0x20 1 0 1 0).snapB.toNat ∧
      (131072 = (2 * (2 * (due 0x20 1 1 1 4).snapB.toNat * 2 ^ 16) + (due 0x20 1 1 1 4).snapC.toNat) /
        (2 * (due 0x20 1 1 1 4).snapC.toNat) ∧ 4 = (due 0x20 1 1 1 4).snapD.toNat % 8) := by decide

/-- ValidResultWordIsTheWarningTable and ValidWarningMapLimits, for the three classes. -/
theorem witness_ValidResultWordIsTheWarningTable :
    3 = (due 0x20 1 1 1 3).snapD.toNat % 8 ∧ 4 = (due 0x20 1 1 1 12).snapD.toNat % 8 ∧
      7 = (due 0x20 1 1 1 7).snapD.toNat % 8 ∧ (due 0x20 1 1 1 7).flags = {} := by decide

theorem witness_ValidWithZeroRate :
    (0 = (due 0x20 5 5 0 0).snapD.toNat % 8 ∧ (0 : Nat) ≠ 3 ∧ (due 0x20 5 5 0 0).snapC = 0) ∧
      4 = (due 0x20 5 5 0 4).snapD.toNat % 8 ∧ (due 0x20 0 0 0 0).snapA = 0 ∧ (due 0x20 0 0 0 0).snapB = 0 ∧
      (due 0x20 0 0 0 0).snapC = 0 ∧ (due 0x20 0 0 0 0).snapD = 0 := by decide

theorem witness_ReadsHaveNoSideEffect :
    ((idle [busAt 0x00 .read]).inflight ≠ some 0 ∧ (0x00 : Nat) < 64 ∧ 0x00 % 4 = 0 ∧
        Delivers (idle [busAt 0x00 .read]) 0x00 .read []) ∧
      (running 0x12 1 [busAt 0x3C .read]).inflight ≠ some 0 ∧ (0x3C : Nat) < 64 ∧ 0x3C % 4 = 0 ∧
        Delivers (running 0x12 1 [busAt 0x3C .read]) 0x3C .read [] :=
  ⟨⟨by decide, by decide, by decide, rfl⟩, by decide, by decide, by decide, rfl⟩

theorem witness_ReservedOffsetsReadZeroAndIgnoreWrites :
    (idle []).inflight ≠ some 0 ∧ 0x2C ∈ [0x2C, 0x30, 0x34, 0x38, 0x3C] ∧ 0x3C ∈ [0x2C, 0x30, 0x34, 0x38, 0x3C] ∧
      Delivers (idle [busAt 0x2C .read]) 0x2C .read [] ∧
      Delivers (idle [busAt 0x3C (.write 7)]) 0x3C (.write 7) [] :=
  ⟨by decide, by decide, by decide, rfl, rfl⟩

theorem witness_WritesToReadOnlyRegistersAreIgnored :
    (running 0x12 1 [busAt 0x0C (.write 7)]).inflight ≠ some 0 ∧
      Delivers (running 0x12 1 [busAt 0x0C (.write 7)]) 0x0C (.write 7) [] ∧
      Delivers (idle [busAt 0x20 (.write 7)]) 0x20 (.write 7) [] ∧
      Delivers (idle [busAt 0x28 (.write 7)]) 0x28 (.write 7) [] := ⟨by decide, rfl, rfl, rfl⟩

theorem witness_OperandRegistersStoreTheWrittenWord :
    (idle [busAt 0x10 (.write 5)]).inflight = none ∧ Delivers (idle [busAt 0x10 (.write 5)]) 0x10 (.write 5) [] ∧
      Delivers (idle [busAt 0x14 (.write 5)]) 0x14 (.write 5) [] ∧
      Delivers (idle [busAt 0x18 (.write 5)]) 0x18 (.write 5) [] ∧
      Delivers (idle [busAt 0x1C (.write 5)]) 0x1C (.write 5) [] := ⟨rfl, rfl, rfl, rfl, rfl⟩

theorem witness_StatusWriteClearsDoneAndOverrunOnly :
    (idle [busAt 0x04 (.write 6)]).inflight ≠ some 0 ∧ Delivers (idle [busAt 0x04 (.write 6)]) 0x04 (.write 6) [] ∧
      Delivers (running 0x12 1 [busAt 0x04 (.write 2)]) 0x04 (.write 2) [] := ⟨by decide, rfl, rfl⟩

theorem witness_CtrlWriteSetsIenOnly :
    (idle [busAt 0x08 (.write 3)]).inflight ≠ some 0 ∧ Delivers (idle [busAt 0x08 (.write 3)]) 0x08 (.write 3) [] :=
  ⟨by decide, rfl⟩

/-- The last address below the aperture and the first above it. -/
theorem witness_AccessOutsideTheApertureDoesNothing :
    ((0x3FFF : Nat) < (idle []).params.base ∧ (idle []).params.base + 0x3F < 0x4040) ∧
      (idle [.access { addr := 0x3FFF, bytes := 1, op := .read }]).inflight ≠ some 0 ∧
      (idle [.access { addr := 0x3FFF, bytes := 1, op := .read }]).inputs =
        .access { addr := 0x3FFF, bytes := 1, op := .read } :: [] := by decide

theorem witness_WaitPollsUntilBusyReadsZero :
    ((running 0x12 1 [.wait]).inputs = .wait :: [] ∧ (running 0x12 1 [.wait]).inflight = some (0 + 1)) ∧
      (idle [.wait]).inputs = .wait :: [] ∧ (idle [.wait]).inflight = none := by decide

/-- The host's actions are the expansion of the statement; E and M of `drdec` at the ends of their ranges. -/
theorem witness_PseudoInstructionsIssueTheirCommand :
    (∀ p : Stmt, (idle (Stmt.expand params p ++ [.wait])).inflight = none ∧
        (idle (Stmt.expand params p ++ [.wait])).inputs =
          Stmt.expand (idle (Stmt.expand params p ++ [.wait])).params p ++ [.wait]) ∧
      (15 : Word).toNat < 16 ∧ (255 : Word).toNat < 256 := ⟨fun _ => ⟨rfl, rfl⟩, by decide, by decide⟩

/-- Each way IRQ can rise, and each way it can fall. -/
theorem witness_IrqFollowsDoneAndIen :
    ((due 0x00 0 0 0 0).irq = false ∧ look State.irq { due 0x00 0 0 0 0 with ien := true } = some true) ∧
      look State.irq { idle [busAt 0x08 (.write 1)] with done := true } = some true ∧
      ({ idle [] with done := true, ien := true }).irq = true ∧
      look State.irq { idle [busAt 0x04 (.write 2)] with done := true, ien := true } = some false ∧
      look State.irq { idle [busAt 0x08 (.write 0)] with done := true, ien := true } = some false ∧
      look State.irq { idle [busAt 0x00 (.write 0)] with done := true, ien := true } = some false ∧
      look State.irq { idle [.reset] with done := true, ien := true } = some false := by decide

theorem witness_OverrunIsSticky :
    look State.overrun { idle [busAt 0x04 (.write 4)] with overrun := true } = some false ∧
      look State.overrun { idle [.reset] with overrun := true } = some false ∧
      look State.overrun (running 0x12 1 [busAt 0x00 (.write 0)]) = some true := by decide

/-- RegistersChangeOnlyByTheirWriters, ParametersNeverChange: a cycle in which nothing is written, and a
completion. -/
theorem witness_RegistersChangeOnlyByTheirWriters :
    ((∃ t, step (running 0x12 1 [.wait]) = .next t) ∧ (∀ rest, (running 0x12 1 [.wait]).inputs ≠ .reset :: rest) ∧
        (running 0x12 1 [.wait]).inflight ≠ some 0 ∧
        ∀ off op rest, ¬ Delivers (running 0x12 1 [.wait]) off op rest) ∧
      (∃ t, step (due 0x02 0xFF 0x81 0 0) = .next t) ∧ Due (due 0x02 0xFF 0x81 0 0) := by
  refine ⟨⟨⟨_, rfl⟩, ?_, by decide, ?_⟩, ⟨_, rfl⟩, due_is_due _ _ _ _ _⟩
  · rintro rest ⟨⟩
  · rintro off op rest ⟨⟩

/-- A command on its way, and one whose completion is due. -/
theorem witness_ResetInputPutsEveryRegisterAtItsResetValue :
    (running 0x12 1 [.reset, .idle]).inputs = .reset :: [.idle] ∧ (running 0x12 1 [.reset, .idle]).inflight = some 1 ∧
      (running 0x12 0 [.reset, .idle]).inputs = .reset :: [.idle] ∧
      (running 0x12 0 [.reset, .idle]).inflight = some 0 := by decide

/-- A state that meets the invariant with flags raised: FINS has completed with VOVF and NCONTIG. -/
def afterFins : State :=
  { idle [busAt 0x00 (.write 1)] with
    done := true, lastop := 0x02, res0 := 0xFF, flags := { vovf := true, ncontig := true } }

theorem witness_EveryStepKeepsTheInvariant : State.Inv afterFins ∧ ∃ t, step afterFins = .next t := by
  refine ⟨⟨by decide, by decide, ?_, ?_, ?_, ?_⟩, _, rfl⟩
  · rintro k ⟨⟩
  · constructor <;> decide
  · constructor <;> decide
  · unfold Res2ReservedZero; decide

/-- Clause 1: an idle block with flags raised delivers a CMD write. -/
theorem witness_FlagsDescribeOnlyTheLastCompletedCommand_writes :
    Params.wf afterFins.params = true ∧ afterFins.inflight = none ∧ afterFins.flags ≠ { sat := true } ∧
      Delivers afterFins 0x00 (.write 1) [] ∧ ∀ op ∈ ([] : List HostOp), HostOp.harmless params op = true :=
  ⟨by decide, rfl, by decide, rfl, by decide⟩

/-- Clause 2: a command due, the flags cleared by its acceptance. -/
theorem witness_FlagsDescribeOnlyTheLastCompletedCommand :
    State.Inv (due 0x10 24747 0 0 0) ∧ Due (due 0x10 24747 0 0 0) := by
  refine ⟨⟨by decide, by decide, ?_, ?_, ?_, ?_⟩, due_is_due _ _ _ _ _⟩
  · rintro k ⟨⟩
    decide
  · constructor <;> decide
  · constructor <;> decide
  · unfold Res2ReservedZero; decide

end Sys2Proof.Tests
end

section
/-! The statements of 10_state.md: what a step can do in a cycle without reset, who writes which register,
and the state after reset. -/

namespace Sys2Proof.Machine

open Sys2Proof.Claims

/-! ## Rules of the state's operations -/

@[simp] theorem answer_busy (r : Response) (s : State) : (answer r s).busy = s.busy := rfl

@[simp] theorem dequeue_busy (rest : List HostOp) (s : State) : (dequeue rest s).busy = s.busy := rfl

@[simp] theorem tick_busy (s : State) : (tick s).busy = s.busy := by
  simp [State.busy]

theorem tick_of_idle {s : State} (h : s.inflight = none) : tick s = s := by
  have hcount : (s.inflight.map fun k => k - 1) = s.inflight := by simp [h]
  rw [tick, hcount]

/-- A 32-bit write to a register in a cycle in which nothing completes. -/
theorem step_writeReg {s : State} (r : BusReg) {v : Word} {rest : List HostOp}
    (hd : s.inflight ≠ some 0) (h : Delivers s r.offset (.write v) rest) :
    step s = .next (answer .ack (writeReg r v (dequeue rest (tick s)))) := by
  have hoff : r.offset < 64 ∧ r.offset % 4 = 0 := by cases r <;> decide
  rw [step_write hd h hoff.1 hoff.2, writeOffset_offset]

theorem getLsbD_eq_decide (v : Word) (i : Nat) :
    v.getLsbD i = decide (v.toNat / 2 ^ i % 2 = 1) := by
  rw [← BitVec.testBit_toNat, Nat.testBit_eq_decide_div_mod_eq]

/-! ## What a write leaves unchanged -/

@[simp] theorem writeOffset_params (off : Nat) (v : Word) (s : State) :
    (writeOffset off v s).params = s.params := by
  obtain ⟨-, -, h⟩ | ⟨-, -, h⟩ | ⟨-, h⟩ | ⟨-, h⟩ | ⟨-, h⟩ | ⟨-, h⟩ | ⟨-, h⟩ | ⟨-, h⟩ | ⟨-, h⟩ :=
    writeOffset_cases off v s <;> simp [h]

theorem writeOffset_keeps_results (off : Nat) (v : Word) (s : State) :
    (writeOffset off v s).res0 = s.res0 ∧ (writeOffset off v s).res1 = s.res1 ∧
      (writeOffset off v s).res2 = s.res2 ∧ (writeOffset off v s).lastop = s.lastop := by
  obtain ⟨-, -, h⟩ | ⟨-, -, h⟩ | ⟨-, h⟩ | ⟨-, h⟩ | ⟨-, h⟩ | ⟨-, h⟩ | ⟨-, h⟩ | ⟨-, h⟩ | ⟨-, h⟩ :=
    writeOffset_cases off v s <;> simp [h]

/-- A write that is not an acceptance (40_command.md R90) leaves the command and its records alone. -/
theorem writeOffset_keeps_command {off : Nat} {v : Word} {s : State}
    (hacc : ¬ (off = 0x00 ∧ s.busy = false)) :
    (writeOffset off v s).cmd = s.cmd ∧ (writeOffset off v s).snapA = s.snapA ∧
      (writeOffset off v s).snapB = s.snapB ∧ (writeOffset off v s).snapC = s.snapC ∧
      (writeOffset off v s).snapD = s.snapD ∧ (writeOffset off v s).flags = s.flags ∧
      (writeOffset off v s).busy = s.busy := by
  obtain ⟨-, -, h⟩ | ⟨h0, hb, -⟩ | ⟨-, h⟩ | ⟨-, h⟩ | ⟨-, h⟩ | ⟨-, h⟩ | ⟨-, h⟩ | ⟨-, h⟩ | ⟨-, h⟩ :=
    writeOffset_cases off v s
  case inr.inl => exact absurd ⟨h0, hb⟩ hacc
  all_goals simp [h, State.busy]

theorem writeOffset_keeps_done {off : Nat} {v : Word} {s : State}
    (hacc : ¬ (off = 0x00 ∧ s.busy = false)) (hst : off ≠ 0x04) :
    (writeOffset off v s).done = s.done := by
  obtain ⟨-, -, h⟩ | ⟨h0, hb, -⟩ | ⟨h4, -⟩ | ⟨-, h⟩ | ⟨-, h⟩ | ⟨-, h⟩ | ⟨-, h⟩ | ⟨-, h⟩ | ⟨-, h⟩ :=
    writeOffset_cases off v s
  case inr.inl => exact absurd ⟨h0, hb⟩ hacc
  case inr.inr.inl => exact absurd h4 hst
  all_goals simp [h]

/-- An operand register or IEN changes only by a write to its own offset. -/
theorem writeOffset_keeps_hostRegs (off : Nat) (v : Word) (s : State) :
    (off ≠ 0x10 → (writeOffset off v s).opa = s.opa) ∧
      (off ≠ 0x14 → (writeOffset off v s).opb = s.opb) ∧
      (off ≠ 0x18 → (writeOffset off v s).opc = s.opc) ∧
      (off ≠ 0x1C → (writeOffset off v s).opd = s.opd) ∧
      (off ≠ 0x08 → (writeOffset off v s).ien = s.ien) := by
  obtain ⟨ho, -, h⟩ | ⟨ho, -, h⟩ | ⟨ho, h⟩ | ⟨ho, h⟩ | ⟨ho, h⟩ | ⟨ho, h⟩ | ⟨ho, h⟩ | ⟨ho, h⟩ | ⟨ho, h⟩ :=
    writeOffset_cases off v s <;> rw [h] <;> simp [ho]

/-! ## A step that is not a reset -/

/-- A step without reset is a completion, a cycle in which nothing but the model's own fields and the
in-flight count move, or a 32-bit write to an offset of the aperture. -/
theorem step_cases_of_not_reset {s t : State} (h : step s = .next t)
    (hr : ∀ rest, s.inputs ≠ .reset :: rest) :
    (s.inflight = some 0 ∧ t = complete (dueResult s) s) ∨
    (s.inflight ≠ some 0 ∧ ∃ r ops, t = answer r (dequeue ops (tick s))) ∨
    (s.inflight ≠ some 0 ∧ ∃ off v rest, Delivers s off (.write v) rest ∧
      t = answer .ack (writeOffset off v (dequeue rest (tick s)))) := by
  obtain ⟨hd, -, ht⟩ | ⟨rest, hin, -⟩ | ⟨hd, hbus⟩ := step_cases h
  · exact .inl ⟨hd, ht⟩
  · exact absurd hin (hr rest)
  obtain ⟨-, ht⟩ | ⟨rest, -, ht⟩ | ⟨rest, -, ht⟩ | ⟨a, rest, hin, ha⟩ := hbus
  · exact .inr (.inl ⟨hd, .none, s.inputs, ht⟩)
  · exact .inr (.inl ⟨hd, .none, rest, ht⟩)
  · exact .inr (.inl ⟨hd, .data (tick s).statusWord, (poll rest (tick s)).inputs, ht⟩)
  obtain ⟨-, ht⟩ | ⟨off, -, -, ⟨-, ht⟩ | ⟨v, rfl, ht⟩⟩ := step_access_cases ha
  · exact .inr (.inl ⟨hd, .none, rest, ht⟩)
  · exact .inr (.inl ⟨hd, _, rest, ht⟩)
  · exact .inr (.inr ⟨hd, off, v, rest, hin, ht⟩)

theorem step_keeps_params {s t : State} (h : step s = .next t) : t.params = s.params := by
  by_cases hr : ∃ rest, s.inputs = .reset :: rest
  · obtain ⟨rest, hr⟩ := hr
    rw [step_reset hr, Host.Outcome.next.injEq] at h
    rw [← h, applyReset_params]
  obtain ⟨-, rfl⟩ | ⟨-, r, ops, rfl⟩ | ⟨-, off, v, rest, -, rfl⟩ :=
    step_cases_of_not_reset h fun rest hin => hr ⟨rest, hin⟩
  · rfl
  · rfl
  · exact writeOffset_params off v _

/-- Settles O53: a reset keeps the parameters, and so do a completion, a quiet cycle and a write. -/
theorem parametersNeverChange : Obligations.ParametersNeverChange :=
  fun _ _ => step_keeps_params

/-- Settles O52: the claim holds of a completion and of a quiet cycle at once; of a write it is what
the write leaves unchanged. -/
theorem registersChangeOnlyByTheirWriters : Obligations.RegistersChangeOnlyByTheirWriters := by
  unfold Obligations.RegistersChangeOnlyByTheirWriters
  intro s t h hr
  obtain ⟨hd, rfl⟩ | ⟨hd, r, ops, rfl⟩ | ⟨hd, off, v, rest, hdel, rfl⟩ := step_cases_of_not_reset h hr
  · simp [hd]
  · simp [hd]
  have hoff : ∀ o, (¬ ∃ v rest, Delivers s o (.write v) rest) → off ≠ o := by
    rintro o ho rfl
    exact ho ⟨v, rest, hdel⟩
  have hacc : ¬ (s.inflight = none ∧ ∃ v rest, Delivers s 0x00 (.write v) rest) →
      ¬ (off = 0x00 ∧ (dequeue rest (tick s)).busy = false) := by
    rintro hn ⟨rfl, hb⟩
    exact hn ⟨(State.busy_eq_false_iff s).1 (by simpa using hb), v, rest, hdel⟩
  have hresults := writeOffset_keeps_results off v (dequeue rest (tick s))
  obtain ⟨ha, hb, hc, hd', hi⟩ := writeOffset_keeps_hostRegs off v (dequeue rest (tick s))
  refine ⟨fun _ => hresults, fun _ hn => ?_, fun _ hn hst => ?_, fun hn => ?_,
    fun hw => ha (hoff _ hw), fun hw => hb (hoff _ hw), fun hw => hc (hoff _ hw),
    fun hw => hd' (hoff _ hw), fun hw => hi (hoff _ hw), fun hc => absurd hc hd⟩
  · obtain ⟨-, -, -, -, -, hf, hbusy⟩ := writeOffset_keeps_command (v := v) (hacc hn)
    exact ⟨hf, by simpa using hbusy⟩
  · exact writeOffset_keeps_done (hacc hn) (hoff _ hst)
  · obtain ⟨hcmd, hA, hB, hC, hD, -, -⟩ := writeOffset_keeps_command (v := v) (hacc hn)
    exact ⟨hcmd, hA, hB, hC, hD⟩

/-- Settles O5: the engine moves exactly when a command is due. -/
theorem stepRunsTheCommandThatIsDue : Obligations.StepRunsTheCommandThatIsDue := by
  unfold Obligations.StepRunsTheCommandThatIsDue
  constructor
  · rintro s i ⟨hd, hr⟩ hi
    rw [step_due hd hr, exec_eq_complete]
    simp [dueResult, hi]
  · intro s hn
    exact if_neg fun hc => hn (completesNow_iff.1 hc)

/-! ## Writes to the host's registers -/

/-- A write to a register from an idle block: no cycle is counted. -/
theorem step_writeReg_of_idle {s : State} (r : BusReg) {v : Word} {rest : List HostOp}
    (hidle : s.inflight = none) (h : Delivers s r.offset (.write v) rest) :
    step s = .next (answer .ack (writeReg r v (dequeue rest s))) := by
  rw [step_writeReg r (by simp [hidle]) h, tick_of_idle hidle]

/-- Settles O44: each operand register is the one its write updates. -/
theorem operandRegistersStoreTheWrittenWord : Obligations.OperandRegistersStoreTheWrittenWord := by
  unfold Obligations.OperandRegistersStoreTheWrittenWord
  intro s v rest hidle
  refine ⟨fun h => ⟨_, step_writeReg_of_idle .opa hidle h, rfl, rfl⟩,
    fun h => ⟨_, step_writeReg_of_idle .opb hidle h, rfl, rfl⟩,
    fun h => ⟨_, step_writeReg_of_idle .opc hidle h, rfl, rfl⟩,
    fun h => ⟨_, step_writeReg_of_idle .opd hidle h, rfl, rfl⟩⟩

theorem and_not_getLsbD (b : Bool) (v : Word) (i : Nat) :
    (b && !v.getLsbD i) = if v.toNat / 2 ^ i % 2 = 1 then false else b := by
  rw [getLsbD_eq_decide]
  split <;> simp_all

/-- Settles O45: the write-1-to-clear bits are DONE and OVERRUN. -/
theorem statusWriteClearsDoneAndOverrunOnly : Obligations.StatusWriteClearsDoneAndOverrunOnly := by
  unfold Obligations.StatusWriteClearsDoneAndOverrunOnly
  intro s v rest hd h
  have hdone := and_not_getLsbD s.done v 1
  have hover := and_not_getLsbD s.overrun v 2
  norm_num only at hdone hover
  rw [step_writeReg .status hd h, ← hdone, ← hover]
  rfl

theorem ctrlWord_toNat (s : State) : s.ctrlWord.toNat = s.ien.toNat := by
  cases h : s.ien <;> simp [State.ctrlWord, h]

/-- Settles O46: the write stores bit 0 in IEN, and CTRL is IEN zero-extended. -/
theorem ctrlWriteSetsIenOnly : Obligations.CtrlWriteSetsIenOnly := by
  unfold Obligations.CtrlWriteSetsIenOnly
  intro s v rest hd h
  have hbit : v.getLsbD 0 = decide (v.toNat % 2 = 1) := by simpa using getLsbD_eq_decide v 0
  refine ⟨_, step_writeReg .ctrl hd h, by rw [← hbit]; rfl, ?_⟩
  calc (answer .ack (writeReg .ctrl v (dequeue rest (tick s)))).ctrlWord.toNat
      = (v.getLsbD 0).toNat := ctrlWord_toNat _
    _ = v.toNat % 2 := by
      rw [hbit]
      rcases Nat.mod_two_eq_zero_or_one v.toNat with h | h <;> simp [h]

/-! ## The state after reset -/

/-- The catalog that stands for one a build must reject (10_state.md R30). -/
theorem emptyCatalog_wf : Catalog.wf (List.replicate 47 []) = true := by decide

theorem configParams_catalog_wf : Catalog.wf Config.params.catalog = true := by
  show Catalog.wf (if Catalog.wf Config.openCatalog then _ else _) = true
  split
  · assumption
  · exact emptyCatalog_wf

theorem configParams_fXosc_range :
    1000000 ≤ Config.params.fXosc ∧ Config.params.fXosc ≤ 64000000 := by
  show 1000000 ≤ 1000000 + Config.openFXosc % 63000001 ∧ _ ≤ _
  simp only [Config.params]
  omega

theorem configParams_base_aligned : Config.params.base % 64 = 0 :=
  Nat.mul_mod_right 64 _

theorem configParams_wf : Params.wf Config.params = true := by
  have hlat : Latencies.wf Config.params.latency = true := by simp [Latencies.wf, Config.params]
  simp [Params.wf, configParams_fXosc_range, configParams_catalog_wf, hlat,
    configParams_base_aligned]

theorem readOffset_fxosc (s : State) (h : s.params.fXosc < 2 ^ 32) :
    (readOffset s 0x0C).toNat = s.params.fXosc := by
  rw [← Nat.mod_eq_of_lt h]
  exact BitVec.toNat_ofNat ..

/-- Settles O55: the registers are 0 by definition, the constants in range for every choice of the open
parameters. -/
theorem resetStateHasTheStatedValues : Obligations.ResetStateHasTheStatedValues := by
  unfold Obligations.ResetStateHasTheStatedValues
  obtain ⟨hlo, hhi⟩ := configParams_fXosc_range
  exact ⟨rfl, rfl, rfl, rfl, rfl, rfl, rfl, rfl, rfl, rfl, rfl, rfl, hlo, hhi,
    readOffset_fxosc _ (Nat.lt_of_le_of_lt hhi (by norm_num)), configParams_catalog_wf,
    configParams_base_aligned⟩

/-- The invariant holds of every reset state of a legal build: no flag is set and nothing is in
flight. -/
theorem inv_resetWith {p : Params} (hp : Params.wf p = true) (ops : List HostOp) :
    State.Inv (State.resetWith p ops) where
  built := hp
  busy_clear := nofun
  due_in_time := nofun
  flags_explained := by constructor <;> exact nofun
  causes_recorded := by constructor <;> exact nofun
  res2_reserved := by
    show Res2ReservedZero 0
    unfold Res2ReservedZero
    decide

/-- Settles O56: the built parameters are legal. -/
theorem invariantHoldsAtReset : Obligations.InvariantHoldsAtReset :=
  inv_resetWith configParams_wf []

end Sys2Proof.Machine
end

section
/-! The statements of 20_memory.md: the byte lanes, the register map, the accesses that have no effect and
the ones that stop the machine. -/

namespace Sys2Proof.Machine

open Sys2Proof.Claims

/-! ## Words and byte lanes -/

theorem toNat_append_eq_add {m n : Nat} (x : BitVec m) (y : BitVec n) :
    (x ++ y).toNat = x.toNat * 2 ^ n + y.toNat := by
  rw [BitVec.toNat_append, ← Nat.shiftLeft_add_eq_or_of_lt y.isLt, Nat.shiftLeft_eq]

theorem byteLane_toNat (w : Word) (k : Nat) :
    (byteLane w k).toNat = w.toNat / 2 ^ (8 * k) % 2 ^ 8 := by
  rw [byteLane, BitVec.extractLsb'_toNat, Nat.shiftRight_eq_div_pow]

theorem wordOfLanes_byteLane (w : Word) :
    wordOfLanes (byteLane w 0) (byteLane w 1) (byteLane w 2) (byteLane w 3) = w := by
  apply BitVec.eq_of_toNat_eq
  simp only [wordOfLanes, toNat_append_eq_add, byteLane_toNat]
  omega

/-- Settles O4: the four lanes put together are the word. -/
theorem byteLanesCarryTheWordLittleEndian : Obligations.ByteLanesCarryTheWordLittleEndian := by
  unfold Obligations.ByteLanesCarryTheWordLittleEndian
  refine ⟨fun w => ?_, fun s off k _ => byteLane_toNat (readOffset s off) k⟩
  rw [decodeLanes, wordOfLanes_byteLane]

/-! ## Reads -/

/-- STATUS as a sum: each field at the place 10_state.md R24 gives it. -/
theorem statusWord_toNat (s : State) :
    s.statusWord.toNat =
      s.busy.toNat + 2 * s.done.toNat + 4 * s.overrun.toNat +
        8 * s.flags.illegal.toNat + 2 ^ 8 * s.flags.empty.toNat + 2 ^ 9 * s.flags.ncontig.toNat +
        2 ^ 10 * s.flags.vovf.toNat + 2 ^ 11 * s.flags.badaddr.toNat +
        2 ^ 12 * s.flags.badbit.toNat + 2 ^ 13 * s.flags.nocand.toNat + 2 ^ 14 * s.flags.dom.toNat +
        2 ^ 15 * s.flags.sat.toNat + 2 ^ 24 * s.lastop.toNat := by
  simp only [State.statusWord, toNat_append_eq_add, BitVec.toNat_ofBool,
    BitVec.toNat_ofNat]
  omega

/-- Settles O41: every offset selects its register; CTRL and STATUS are read as numbers. -/
theorem registerMapReadsEachRegister : Obligations.RegisterMapReadsEachRegister := by
  unfold Obligations.RegisterMapReadsEachRegister
  intro s
  exact ⟨readOffset_offset s .cmd, readOffset_offset s .fxosc, readOffset_offset s .opa,
    readOffset_offset s .opb, readOffset_offset s .opc, readOffset_offset s .opd,
    readOffset_offset s .res0, readOffset_offset s .res1, readOffset_offset s .res2,
    ctrlWord_toNat s, statusWord_toNat s⟩

/-- A cycle that passes for the command in flight shows in no register: BUSY stays. -/
theorem readReg_tick (s : State) (r : BusReg) : readReg (tick s) r = readReg s r := by
  cases r
  case status => simp [readReg, State.statusWord]
  all_goals rfl

@[simp] theorem readOffset_tick (s : State) (off : Nat) :
    readOffset (tick s) off = readOffset s off := by
  unfold readOffset
  cases regAt off with
  | none => rfl
  | some r => exact readReg_tick s r

@[simp] theorem readOffset_dequeue (s : State) (rest : List HostOp) (off : Nat) :
    readOffset (dequeue rest s) off = readOffset s off := rfl

@[simp] theorem readOffset_answer (s : State) (r : Response) (off : Nat) :
    readOffset (answer r s) off = readOffset s off := rfl

/-- A cycle of the bus that leaves the block alone, as the update the statements write. -/
theorem answer_dequeue_tick (s : State) (rest : List HostOp) (r : Response) :
    answer r (dequeue rest (tick s)) =
      { s with inflight := ticked s, inputs := rest, response := r } := rfl

theorem step_read_delivered {s : State} {off : Nat} {rest : List HostOp}
    (hd : s.inflight ≠ some 0) (h : Delivers s off .read rest) (hoff : off < 64)
    (hal : off % 4 = 0) :
    step s = .next (answer (.data (readOffset s off)) (dequeue rest (tick s))) := by
  rw [step_read hd h hoff hal, readOffset_dequeue, readOffset_tick]

/-- Settles O40: the read leaves a quiet cycle's state, and no register shows that cycle. -/
theorem readsHaveNoSideEffect : Obligations.ReadsHaveNoSideEffect := by
  unfold Obligations.ReadsHaveNoSideEffect
  intro s off rest hd hoff hal h
  rw [← answer_dequeue_tick]
  exact ⟨step_read_delivered hd h hoff hal, by simp⟩

/-! ## Accesses without an effect -/

theorem regAt_reserved {off : Nat} (h : off ∈ [0x2C, 0x30, 0x34, 0x38, 0x3C]) :
    regAt off = none ∧ off < 64 ∧ off % 4 = 0 := by
  revert off
  decide

theorem readOffset_of_regAt_none {off : Nat} (h : regAt off = none) (s : State) :
    readOffset s off = 0 := by
  rw [readOffset, h]

theorem writeOffset_of_regAt_none {off : Nat} (h : regAt off = none) (v : Word) (s : State) :
    writeOffset off v s = s := by
  rw [writeOffset, h]

/-- Settles O42: no register stands at a reserved offset. -/
theorem reservedOffsetsReadZeroAndIgnoreWrites :
    Obligations.ReservedOffsetsReadZeroAndIgnoreWrites := by
  unfold Obligations.ReservedOffsetsReadZeroAndIgnoreWrites
  intro s off rest hd hres
  obtain ⟨hnone, hoff, hal⟩ := regAt_reserved hres
  constructor
  · intro h
    rw [step_read_delivered hd h hoff hal, readOffset_of_regAt_none hnone]
    rfl
  · intro v h
    rw [step_write hd h hoff hal, writeOffset_of_regAt_none hnone]
    rfl

/-- Settles O43: a write to each of the four registers is the identity. -/
theorem writesToReadOnlyRegistersAreIgnored : Obligations.WritesToReadOnlyRegistersAreIgnored := by
  unfold Obligations.WritesToReadOnlyRegistersAreIgnored
  intro s off v rest hd hro h
  simp only [List.mem_cons, List.not_mem_nil, or_false] at hro
  obtain rfl | rfl | rfl | rfl := hro
  · exact step_writeReg .fxosc hd h
  · exact step_writeReg .res0 hd h
  · exact step_writeReg .res1 hd h
  · exact step_writeReg .res2 hd h

theorem inAperture_iff {p : Params} {addr : Nat} :
    inAperture p addr = true ↔ p.base ≤ addr ∧ addr < p.base + 64 := by
  simp [inAperture]

theorem step_access {s : State} {a : Access} {rest : List HostOp} (hd : s.inflight ≠ some 0)
    (h : s.inputs = .access a :: rest) : step s = access a (dequeue rest (tick s)) := by
  rw [step_not_due hd, busCycle, h]

/-- Settles O47: the block does not decode an address outside the aperture. -/
theorem accessOutsideTheApertureDoesNothing : Obligations.AccessOutsideTheApertureDoesNothing := by
  unfold Obligations.AccessOutsideTheApertureDoesNothing
  intro s a rest hd h hout
  have hin : inAperture s.params a.addr = false := by
    rw [Bool.eq_false_iff, ne_eq, inAperture_iff]
    omega
  rw [step_access hd h]
  exact access_outside hin

/-! ## What stops the machine -/

theorem access_ne_refused (a : Access) (s : State) (r : Refusal) : access a s ≠ .refused r := by
  unfold access
  split_ifs
  · cases a.op <;> exact nofun
  all_goals exact nofun

/-- An access faults exactly when it is inside the aperture and no whole aligned word
(20_memory.md R52). -/
theorem access_eq_fault_iff {a : Access} {s : State} {r : Fault} :
    access a s = .fault r ↔
      r = .busError ∧ inAperture s.params a.addr = true ∧ wordAligned s.params a = false := by
  cases hin : inAperture s.params a.addr with
  | false => simp [access_outside hin]
  | true =>
    cases hal : wordAligned s.params a with
    | false => simp [access_bad hin hal]
    | true =>
      cases hop : a.op with
      | read => simp [access_read hin hal hop]
      | write v => simp [access_write hin hal hop]

theorem busCycle_ne_refused (s : State) (r : Refusal) : busCycle s ≠ .refused r := by
  unfold busCycle
  split <;> simp [access_ne_refused]

/-- Of the host's actions only an access can fault. -/
theorem busCycle_eq_fault_iff {s : State} {r : Fault} :
    busCycle s = .fault r ↔
      ∃ a rest, s.inputs = .access a :: rest ∧ access a (dequeue rest (tick s)) = .fault r := by
  unfold busCycle
  split <;> simp_all

/-- When a completion is due the step answers: a reset if one is asserted, else the completion. -/
theorem step_due_eq_next {s : State} (h : s.inflight = some 0) : ∃ t, step s = .next t := by
  by_cases hr : ∃ rest, s.inputs = .reset :: rest
  · obtain ⟨rest, hr⟩ := hr
    exact ⟨_, step_reset hr⟩
  · exact ⟨_, step_due h fun rest hin => hr ⟨rest, hin⟩⟩

theorem wordAligned_eq_false_iff {p : Params} {a : Access} :
    wordAligned p a = false ↔ ¬ (a.bytes = 4 ∧ (a.addr - p.base) % 4 = 0) := by
  simp [wordAligned]

/-- Settles O9: a due completion always answers, and a cycle of the bus stops only at a bad access. -/
theorem onlyBadBusAccessesStopTheMachine : Obligations.OnlyBadBusAccessesStopTheMachine := by
  unfold Obligations.OnlyBadBusAccessesStopTheMachine
  intro s
  by_cases hd : s.inflight = some 0
  · obtain ⟨t, ht⟩ := step_due_eq_next hd
    simp [ht, hd]
  · rw [step_not_due hd]
    refine ⟨busCycle_ne_refused s, fun r => ?_⟩
    simp only [busCycle_eq_fault_iff, access_eq_fault_iff, dequeue_params, tick_params,
      inAperture_iff, wordAligned_eq_false_iff]
    constructor
    · rintro ⟨a, rest, hin, hr, ⟨hlo, hhi⟩, hbad⟩
      exact ⟨hr, hd, a, rest, hin, hlo, hhi, hbad⟩
    · rintro ⟨hr, -, a, rest, hin, hlo, hhi, hbad⟩
      exact ⟨a, rest, hin, hr, ⟨hlo, hhi⟩, hbad⟩

end Sys2Proof.Machine
end

section
/-! The statements of 30_encoding.md: the command word and its decoder, the operand bits a command
reads, the words the quantizer writes read back, and the host statements. -/

namespace Sys2Proof.Machine

open Sys2Proof.Claims Sys2Proof.Laws.EncodingFields

/-! ## The command word -/

theorem opcField_toNat (w : Word) : (opcField w).toNat = w.toNat % 2 ^ 8 := by
  simp [opcField]

theorem rsvField_eq_zero_iff (w : Word) : rsvField w = 0 ↔ w.toNat / 2 ^ 8 = 0 := by
  rw [← BitVec.toNat_inj, rsvField, BitVec.extractLsb'_toNat, Nat.shiftRight_eq_div_pow]
  simp only [BitVec.ofNat_eq_ofNat, BitVec.toNat_ofNat]
  omega

theorem decodeOpcode_eq_ok_iff {opc : Byte} {i : Instr} :
    decodeOpcode opc = .ok i ↔ opc.toNat = tableOpcode i := by
  constructor
  · intro h
    unfold decodeOpcode at h
    split at h <;> cases h <;> assumption
  · intro h
    unfold decodeOpcode
    rw [h]
    cases i <;> rfl

/-- The decoder, field by field (30_encoding.md R71). -/
theorem decode_eq_ok_iff {w : Word} {i : Instr} :
    decode w = .ok i ↔ w.toNat / 2 ^ 8 = 0 ∧ w.toNat % 2 ^ 8 = tableOpcode i := by
  rw [← rsvField_eq_zero_iff, ← opcField_toNat, ← decodeOpcode_eq_ok_iff, decode]
  split <;> simp_all

theorem decode_eq_error_iff {w : Word} :
    (∃ r, decode w = .error r) ↔ ∀ i, decode w ≠ .ok i := by
  cases decode w <;> simp

/-- The opcodes that are in no row of the table (30_encoding.md R72). -/
theorem forall_ne_tableOpcode_iff {o : Nat} (ho : o < 2 ^ 8) :
    (∀ i, o ≠ tableOpcode i) ↔
      (0x05 ≤ o ∧ o ≤ 0x0F) ∨ (0x14 ≤ o ∧ o ≤ 0x1F) ∨ (0x21 ≤ o ∧ o ≤ 0xFF) := by
  constructor
  · intro h
    have hne : o ≠ 0x00 ∧ o ≠ 0x01 ∧ o ≠ 0x02 ∧ o ≠ 0x03 ∧ o ≠ 0x04 ∧
        o ≠ 0x10 ∧ o ≠ 0x11 ∧ o ≠ 0x12 ∧ o ≠ 0x13 ∧ o ≠ 0x20 :=
      ⟨h .nop, h .fext, h .fins, h .vbits, h .ffbit,
        h .drenc, h .drdec, h .dvenc, h .dvdec, h .valid⟩
    omega
  · intro h i
    cases i <;> simp only [tableOpcode] <;> omega

/-- Settles O2: the decoder field by field; a word is illegal when it is no command. -/
theorem wordIsCommandIffReservedZeroAndOpcodeListed :
    Obligations.WordIsCommandIffReservedZeroAndOpcodeListed := by
  unfold Obligations.WordIsCommandIffReservedZeroAndOpcodeListed
  intro w
  refine ⟨fun i => decode_eq_ok_iff, ?_⟩
  dsimp only
  rw [decode_eq_error_iff, ← forall_ne_tableOpcode_iff (Nat.mod_lt _ (by norm_num))]
  simp only [ne_eq, decode_eq_ok_iff, not_and_or, forall_or_left]

/-- The command word holds the table's opcode and a zero RSV. -/
theorem encoding_statement (i : Instr) : Statement i := by
  cases i
  exacts [nop, fext, fins, vbits, ffbit, drenc, drdec, dvenc, dvdec, valid]

theorem encode_toNat (i : Instr) : (encode i).toNat = tableOpcode i := by
  obtain ⟨-, -, -, h⟩ := encoding_statement i
  exact h

@[simp] theorem decode_encode (i : Instr) : decode (encode i) = .ok i := by
  obtain ⟨-, hopc, hrsv, -⟩ := encoding_statement i
  rw [decode_eq_ok_iff, ← rsvField_eq_zero_iff, ← opcField_toNat]
  exact ⟨hrsv, hopc⟩

theorem eq_encode_of_decode {w : Word} {i : Instr} (h : decode w = .ok i) : w = encode i := by
  obtain ⟨hrsv, hopc⟩ := decode_eq_ok_iff.1 h
  apply BitVec.eq_of_toNat_eq
  rw [encode_toNat]
  omega

/-- Settles O3: the word's two fields are those the decoder asks for, and they are the whole word. -/
theorem encodeThenDecodeIsIdentity : Obligations.EncodeThenDecodeIsIdentity :=
  ⟨decode_encode, fun _ _ => eq_encode_of_decode⟩

/-- Settles O1: the seven words are the encodings of their commands; the other four are evaluated. -/
theorem tableWordsDecodeToTheirCommands : Obligations.TableWordsDecodeToTheirCommands :=
  ⟨decode_encode .nop, decode_encode .fext, decode_encode .fins, decode_encode .ffbit,
    decode_encode .drenc, decode_encode .dvdec, decode_encode .valid,
    by decide, by decide, by decide, by decide⟩

/-! ## The operand bits a command reads -/

theorem byteOperand_congr {a a' : Word} (h : a.toNat % 2 ^ 8 = a'.toNat % 2 ^ 8) :
    byteOperand a = byteOperand a' :=
  BitVec.eq_of_toNat_eq <| (byteOperand_toNat a).trans <| h.trans (byteOperand_toNat a').symm

theorem maskOperand_congr {b b' : Word} (h : b.toNat % 2 ^ 8 = b'.toNat % 2 ^ 8) :
    maskOperand b = maskOperand b' := byteOperand_congr h

theorem modOperand_congr {d d' : Word} (h : d.toNat % 2 ^ 3 = d'.toNat % 2 ^ 3) :
    modOperand d = modOperand d' :=
  BitVec.eq_of_toNat_eq <| (modOperand_toNat d).trans <| h.trans (modOperand_toNat d').symm

theorem drwE_congr {a a' : Word} (h : a.toNat % 2 ^ 4 = a'.toNat % 2 ^ 4) : drwE a = drwE a' :=
  (drwE_eq a).trans <| h.trans (drwE_eq a').symm

theorem drwM_congr {a a' : Word} (h : a.toNat / 2 ^ 8 % 2 ^ 8 = a'.toNat / 2 ^ 8 % 2 ^ 8) :
    drwM a = drwM a' :=
  (drwM_eq a).trans <| h.trans (drwM_eq a').symm

theorem devE_congr {a a' : Word} (h : a.toNat / 2 ^ 4 % 2 ^ 3 = a'.toNat / 2 ^ 4 % 2 ^ 3) :
    devE (byteOperand a) = devE (byteOperand a') :=
  (devE_byteOperand a).trans <| h.trans (devE_byteOperand a').symm

theorem devM_congr {a a' : Word} (h : a.toNat % 2 ^ 3 = a'.toNat % 2 ^ 3) :
    devM (byteOperand a) = devM (byteOperand a') :=
  (devM_byteOperand a).trans <| h.trans (devM_byteOperand a').symm

/-- A command's result is a function of the operand fields of 30_encoding.md R74. -/
theorem opResult_congr {i : Instr} {s : State} {a b c d : Word}
    (h : AgreeOnRead i s.snapA s.snapB s.snapC s.snapD a b c d) :
    opResult i { s with snapA := a, snapB := b, snapC := c, snapD := d } = opResult i s := by
  cases i with
  | nop => rfl
  | fext =>
    obtain ⟨ha, hb⟩ := h
    simp only [opResult, fextOp, byteOperand_congr ha, maskOperand_congr hb]
  | fins =>
    obtain ⟨ha, hb, rfl⟩ := h
    simp only [opResult, finsOp, byteOperand_congr ha, maskOperand_congr hb]
  | vbits => obtain rfl := h; rfl
  | ffbit => obtain ⟨rfl, rfl⟩ := h; rfl
  | drenc => obtain rfl := h; rfl
  | drdec =>
    obtain ⟨he, hm⟩ := h
    simp only [opResult, drdecOp, drwE_congr he, drwM_congr hm]
  | dvenc => obtain rfl := h; rfl
  | dvdec =>
    obtain ⟨hm, he⟩ := h
    simp only [opResult, dvdecOp, devE_congr he, devM_congr hm]
  | valid =>
    obtain ⟨rfl, rfl, rfl, hd⟩ := h
    simp only [opResult, validOp, modOperand_congr hd]

/-- Settles O8: the completion carries the snapshot along, and its result is the same. -/
theorem operandBitsNotListedAreIgnored : Obligations.OperandBitsNotListedAreIgnored := by
  unfold Obligations.OperandBitsNotListedAreIgnored
  intro i s a b c d h
  refine ⟨_, exec_eq_complete i s, ?_⟩
  rw [exec_eq_complete, opResult_congr h]
  rfl

/-! ## The words the quantizer writes, read back -/

theorem drwWord_toNat {e m : Nat} (he : e < 16) (hm : m < 256) :
    (drwWord e m).toNat = m * 2 ^ 8 + e := by
  rw [drwWord, BitVec.toNat_ofNat, ← Nat.shiftLeft_add_eq_or_of_lt (by omega), Nat.shiftLeft_eq]
  omega

theorem devWord_toNat {e m : Nat} (he : e < 8) (hm : m < 8) :
    (devWord e m).toNat = e * 2 ^ 4 + m := by
  rw [devWord, BitVec.toNat_ofNat, ← Nat.shiftLeft_add_eq_or_of_lt (by omega), Nat.shiftLeft_eq]
  omega

/-- DRDEC of a DRW the block wrote (30_encoding.md R76). -/
theorem drdecOp_drwWord (f : Nat) {e m : Nat} (he : e < 16) (hm : m < 256) :
    drdecOp f (drwWord e m) = { res0 := some (BitVec.ofNat 32 (rateU32m f e m)) } := by
  have hE : drwE (drwWord e m) = e := by rw [drwE_eq, drwWord_toNat he hm]; omega
  have hM : drwM (drwWord e m) = m := by rw [drwM_eq, drwWord_toNat he hm]; omega
  rw [drdecOp, hE, hM]

/-- DVDEC of a deviation byte the block wrote (30_encoding.md R77). -/
theorem dvdecOp_devWord (f : Nat) {e m : Nat} (he : e < 8) (hm : m < 8) :
    dvdecOp f (devWord e m) = { res0 := some (BitVec.ofNat 32 (devU32m f e m)) } := by
  have hE : devE (byteOperand (devWord e m)) = e := by
    rw [devE_byteOperand, devWord_toNat he hm]; omega
  have hM : devM (byteOperand (devWord e m)) = m := by
    rw [devM_byteOperand, devWord_toNat he hm]; omega
  rw [dvdecOp, hE, hM]

/-- DRENC raises NOCAND, or writes the word of a pair in range and that pair's rate. -/
theorem drencOp_cases (f : Nat) (a : Word) :
    (drencOp f a).flags.nocand = true ∨
    ∃ e m, e < 16 ∧ m < 256 ∧ (drencOp f a).res0 = some (drwWord e m) ∧
      (drencOp f a).res1 = some (BitVec.ofNat 32 (rateU32m f e m)) := by
  obtain ⟨hnone, -⟩ | ⟨c, hc, hleast⟩ := rateSearch_spec f a.toNat
  · left
    simp only [drencOp, hnone]
  · right
    obtain ⟨he, hcand⟩ := mem_rateCandidates.1 hleast.mem
    obtain ⟨-, hm, -⟩ := rateCandidate_eq_some.1 hcand
    exact ⟨c.e, c.m, he, hm, by simp only [drencOp, hc], by simp only [drencOp, hc]⟩

/-- DVENC writes the byte of a pair in range and that pair's deviation. -/
theorem dvencOp_spec (f : Nat) (a : Word) :
    ∃ e m, e < 8 ∧ m < 8 ∧ (dvencOp f a).res0 = some (devWord e m) ∧
      (dvencOp f a).res1 = some (BitVec.ofNat 32 (devU32m f e m)) := by
  obtain ⟨c, hc, hleast⟩ := devSearch_spec f a.toNat
  obtain ⟨he, hm, -⟩ := mem_devCandidates.1 hleast.mem
  exact ⟨c.e, c.m, he, hm, by simp only [dvencOp, hc, Option.getD_some],
    by simp only [dvencOp, hc, Option.getD_some]⟩

/-- Settles O35: the encoded pair is in range, so the decoder reads it back and rounds the same
quantity. -/
theorem decodingTheQuantizedWordGivesTheAchievedValue :
    Obligations.DecodingTheQuantizedWordGivesTheAchievedValue := by
  unfold Obligations.DecodingTheQuantizedWordGivesTheAchievedValue
  intro s hflags
  constructor
  · refine ⟨_, exec_eq_complete .drenc s, fun hcand => ⟨_, exec_eq_complete .drdec _, ?_⟩⟩
    rw [complete_flags, hflags, Flags.none_raise] at hcand
    obtain hno | ⟨e, m, he, hm, h0, h1⟩ := drencOp_cases s.params.fXosc s.snapA
    · exact absurd (hcand.symm.trans hno) (by decide)
    · simp [opResult, h0, h1, drdecOp_drwWord _ he hm]
  · refine ⟨_, _, exec_eq_complete .dvenc s, exec_eq_complete .dvdec _, ?_⟩
    obtain ⟨e, m, he, hm, h0, h1⟩ := dvencOp_spec s.params.fXosc s.snapA
    simp [opResult, h0, h1, dvdecOp_devWord _ he hm]

/-! ## Host statements -/

/-- BUSY is STATUS bit 0 (10_state.md R24). -/
theorem statusWord_getLsbD_zero (s : State) : s.statusWord.getLsbD 0 = s.busy := by
  rw [getLsbD_eq_decide, statusWord_toNat]
  cases s.busy <;> simp <;> omega

@[simp] theorem tick_statusWord (s : State) : (tick s).statusWord = s.statusWord :=
  readReg_tick s .status

theorem step_wait {s : State} {rest : List HostOp} (hd : s.inflight ≠ some 0)
    (h : s.inputs = .wait :: rest) : step s = .next (poll rest (tick s)) := by
  rw [step_not_due hd, busCycle, h]

theorem poll_of_busy {s : State} (rest : List HostOp) (h : s.busy = true) :
    poll rest s = answer (.data s.statusWord) s := by
  simp [poll, answer, statusWord_getLsbD_zero, h, -BitVec.getLsbD_eq_getElem]

theorem poll_of_idle {s : State} (rest : List HostOp) (h : s.busy = false) :
    poll rest s = answer (.data s.statusWord) (dequeue rest s) := by
  simp [poll, answer, dequeue, statusWord_getLsbD_zero, h, -BitVec.getLsbD_eq_getElem]

/-- Settles O48: the poll reads BUSY, which a passing cycle leaves as it is. -/
theorem waitPollsUntilBusyReadsZero : Obligations.WaitPollsUntilBusyReadsZero := by
  unfold Obligations.WaitPollsUntilBusyReadsZero
  intro s rest hin
  constructor
  · intro k hk
    have hbusy : (tick s).busy = true := by simp [State.busy, hk]
    rw [step_wait (by simp [hk]) hin, poll_of_busy rest hbusy, tick_statusWord]
    simp [answer, tick, hk]
  · intro hidle
    have hbusy : s.busy = false := (State.busy_eq_false_iff s).2 hidle
    rw [step_wait (by simp [hidle]) hin, tick_of_idle hidle, poll_of_idle rest hbusy]
    rfl

/-- The block of build `p` is idle, and `ops` is what the host does next. -/
structure Pending (p : Params) (ops : List HostOp) (s : State) : Prop where
  built : s.params = p
  idle : s.inflight = none
  next : s.inputs = ops

theorem Pending.step_wr {p : Params} {r : BusReg} {v : Word} {ops : List HostOp} {s : State}
    (h : Pending p (wr p r v :: ops) s) :
    step s = .next (answer .ack (writeReg r v (dequeue ops s))) := by
  obtain ⟨rfl, hidle, hin⟩ := h
  exact step_writeReg_of_idle r hidle hin

/-- A `wr` to a register other than CMD leaves the block idle. -/
theorem Pending.after_wr {p : Params} {r : BusReg} (hr : r ≠ .cmd) {v : Word} {ops : List HostOp}
    {s : State} (h : Pending p (wr p r v :: ops) s) :
    Pending p ops (answer .ack (writeReg r v (dequeue ops s))) := by
  obtain ⟨hp, hidle, -⟩ := h
  cases r
  case cmd => contradiction
  all_goals exact ⟨hp, hidle, rfl⟩

/-- `n` steps end with a command in flight, `rest` left to do, and `ok`. -/
def Issues (n : Nat) (s : State) (rest : List HostOp) (ok : State → Prop) : Prop :=
  ∃ t : State, runSteps n s = .next t ∧ t.busy = true ∧ t.inputs = rest ∧ ok t

theorem runSteps_succ_of_step {n : Nat} {s t : State} (h : step s = .next t) :
    runSteps (n + 1) s = runSteps n t := by
  rw [runSteps, h]

/-- A `wr` to CMD in an idle block issues its word (40_command.md R90). -/
theorem Pending.issue {p : Params} {w : Word} {rest : List HostOp} {s : State} {ok : State → Prop}
    (h : Pending p (wr p .cmd w :: rest) s) (hok : ok (answer .ack (accept w (dequeue rest s)))) :
    Issues 1 s rest ok := by
  have hbusy : (dequeue rest s).busy = false := (State.busy_eq_false_iff s).2 h.idle
  have hstep := h.step_wr
  simp only [writeReg, hbusy, Bool.false_eq_true, if_false] at hstep
  exact ⟨_, runSteps_succ_of_step hstep, rfl, rfl, hok⟩

/-- A `wr` to an operand register, and what the host does after it. -/
theorem Pending.wr_then {p : Params} {r : BusReg} {v : Word} {ops rest : List HostOp} {s : State}
    {n : Nat} {ok : State → Prop} (h : Pending p (wr p r v :: ops) s) (hr : r ≠ .cmd)
    (hrest : Pending p ops (answer .ack (writeReg r v (dequeue ops s))) →
      Issues n (answer .ack (writeReg r v (dequeue ops s))) rest ok) :
    Issues (n + 1) s rest ok := by
  obtain ⟨t, hrun, ht⟩ := hrest (h.after_wr hr)
  exact ⟨t, (runSteps_succ_of_step h.step_wr).trans hrun, ht⟩

/-- A pseudo-instruction of one operand. -/
theorem Pending.issue_unary {p : Params} {x w : Word} {rest : List HostOp} {s : State}
    (h : Pending p (wr p .opa x :: wr p .cmd w :: rest) s) :
    Issues 2 s rest fun t => t.cmd = w ∧ t.snapA = x :=
  h.wr_then (by decide) fun h => h.issue ⟨rfl, rfl⟩

/-- A pseudo-instruction of two operands. -/
theorem Pending.issue_binary {p : Params} {x y w : Word} {rest : List HostOp} {s : State}
    (h : Pending p (wr p .opa x :: wr p .opb y :: wr p .cmd w :: rest) s) :
    Issues 3 s rest fun t => t.cmd = w ∧ t.snapA = x ∧ t.snapB = y :=
  h.wr_then (by decide) fun h => h.wr_then (by decide) fun h => h.issue ⟨rfl, rfl, rfl⟩

/-- The operand of `drdec e, m` is the DRW of the pair (30_encoding.md R76, R84). -/
theorem drw_operand_toNat {e m : Word} (he : e.toNat < 16) (hm : m.toNat < 256) :
    (m <<< 8 ||| e).toNat = m.toNat * 2 ^ 8 + e.toNat := by
  rw [BitVec.toNat_or, BitVec.toNat_shiftLeft, Nat.shiftLeft_eq, Nat.mod_eq_of_lt (by omega),
    ← Nat.shiftLeft_eq, Nat.shiftLeft_add_eq_or_of_lt (by omega)]

/-- Settles O49: an operand write leaves the block idle, and the CMD write takes the snapshot. -/
theorem pseudoInstructionsIssueTheirCommand :
    Obligations.PseudoInstructionsIssueTheirCommand := by
  unfold Obligations.PseudoInstructionsIssueTheirCommand
  intro s rest x y z u hidle issued
  have pending {ops : List HostOp} (h : s.inputs = ops) : Pending s.params ops s := ⟨rfl, hidle, h⟩
  refine ⟨fun h => ?nop, fun h => ?fext, fun h => ?fins, fun h => ?vbits, fun h => ?ffbit,
    fun h => ?drenc, fun he hm h => ?drdec, fun h => ?dvenc, fun h => ?dvdec, fun h => ?valid⟩
  case nop => exact (pending h).issue rfl
  case fext => exact (pending h).issue_binary
  case fins =>
    exact (pending h).wr_then (by decide) fun h => h.wr_then (by decide) fun h =>
      h.wr_then (by decide) fun h => h.issue ⟨rfl, rfl, rfl, rfl⟩
  case vbits => exact (pending h).issue_unary
  case ffbit => exact (pending h).issue_binary
  case drenc => exact (pending h).issue_unary
  case drdec =>
    exact (pending h).wr_then (by decide) fun h => h.issue ⟨rfl, drw_operand_toNat he hm⟩
  case dvenc => exact (pending h).issue_unary
  case dvdec => exact (pending h).issue_unary
  case valid =>
    exact (pending h).wr_then (by decide) fun h => h.wr_then (by decide) fun h =>
      h.wr_then (by decide) fun h => h.wr_then (by decide) fun h => h.issue ⟨rfl, rfl, rfl, rfl, rfl⟩

end Sys2Proof.Machine
end

section
/-! The statements of 40_command.md: acceptance, the writes of a busy block, what a completion writes and
keeps, and the invariant that every step keeps. -/

namespace Sys2Proof.Machine

open Sys2Proof.Claims Sys2Proof.Laws.EncodingFields

/-! ## The result word of VALID -/

theorem length_indexWarnings_le (idx : Ratio) : (indexWarnings idx).length ≤ 1 := by
  unfold indexWarnings
  split_ifs <;> simp

theorem length_minimumWarnings_le (four : Bool) (bw dev : Nat) :
    (minimumWarnings four bw dev).length ≤ 1 := by
  unfold minimumWarnings
  split_ifs <;> simp

theorem length_carsonWarnings_le (bw sugg : Nat) : (carsonWarnings bw sugg).length ≤ 1 := by
  unfold carsonWarnings
  split_ifs <;> simp

theorem length_fourLevelWarnings_le (four : Bool) (idx : Ratio) :
    (fourLevelWarnings four idx).length ≤ 1 := by
  unfold fourLevelWarnings
  split <;> simp

/-- At most one warning of each of the four groups of 43_validator.md R162. -/
theorem length_warnings_le (cls : ModClass) (bw dev rate : Nat) :
    (warnings cls bw dev rate).length ≤ 4 := by
  have grouped (four : Bool) (idx : Ratio) (sugg : Nat) :
      (indexWarnings idx ++ minimumWarnings four bw dev ++ carsonWarnings bw sugg ++
        fourLevelWarnings four idx).length ≤ 4 := by
    have hi := length_indexWarnings_le idx
    have hm := length_minimumWarnings_le four bw dev
    have hc := length_carsonWarnings_le bw sugg
    have hf := length_fourLevelWarnings_le four idx
    simp only [List.length_append]
    omega
  cases cls with
  | ook =>
    unfold warnings
    dsimp only
    split <;> simp
  | four => exact grouped ..
  | two => exact grouped ..

theorem warnMap_lt (ws : List Warning) : warnMap ws < 2 ^ 9 :=
  List.foldlRecOn (motive := (· < 2 ^ 9)) ws _ (by norm_num) fun _ hm w _ =>
    Nat.or_lt_two_pow hm (by cases w <;> decide)

theorem maxSeverity_lt (ws : List Warning) : maxSeverity ws < 4 :=
  List.foldlRecOn (motive := (· < 4)) ws _ (by norm_num) fun _ hm w _ =>
    max_lt hm (by cases w <;> decide)

theorem validWord_toNat {maxsev valid count wmap : Nat} (hs : maxsev < 4) (hv : valid < 2)
    (hc : count < 8) (hw : wmap < 2 ^ 9) :
    (validWord maxsev valid count wmap).toNat =
      maxsev * 2 ^ 17 + valid * 2 ^ 16 + count * 2 ^ 12 + wmap := by
  rw [validWord, Nat.or_assoc, Nat.or_assoc, ← Nat.shiftLeft_add_eq_or_of_lt (a := count) (by omega),
    ← Nat.shiftLeft_add_eq_or_of_lt (a := valid) (by omega),
    ← Nat.shiftLeft_add_eq_or_of_lt (a := maxsev) (by omega), BitVec.toNat_ofNat]
  omega

/-- The reserved bits of RES2 lie between the fields of the result word (30_encoding.md R81). -/
theorem res2ReservedZero_resultWord (cls : ModClass) (bw dev rate : Nat) :
    Res2ReservedZero (resultWord (warnings cls bw dev rate)) := by
  have hc : (warnings cls bw dev rate).length < 8 :=
    Nat.lt_of_le_of_lt (length_warnings_le cls bw dev rate) (by norm_num)
  have hs := maxSeverity_lt (warnings cls bw dev rate)
  have hm := warnMap_lt (warnings cls bw dev rate)
  have hv := Bool.toNat_lt (isValid (warnings cls bw dev rate))
  have hword := validWord_toNat hs hv hc hm
  unfold Res2ReservedZero resultWord
  simp only [← BitVec.toNat_inj, BitVec.extractLsb'_toNat, Nat.shiftRight_eq_div_pow, hword,
    BitVec.ofNat_eq_ofNat, BitVec.toNat_ofNat]
  omega

/-! ## What a result records of its causes -/

/-- The invariant's demands on a completion, as demands on its result: the flags are ones the opcode can
raise, each comes with the result it records (60_exceptions.md R190), and RES2's reserved bits are 0. -/
structure ResultExplained (r : OpResult) (opc : Byte) : Prop where
  flags : FlagsExplained r.flags opc
  badaddr : r.flags.badaddr = true → r.res0 = some 0
  badbit : r.flags.badbit = true → r.res0 = some 0
  nocand : r.flags.nocand = true → r.res0 = some 0 ∧ r.res1 = some 0
  sat : r.flags.sat = true → r.res0 = some 0xFFFF_FFFF#32 ∨ r.res1 = some 0xFFFF_FFFF#32
  res2 : ∀ w, r.res2 = some w → Res2ReservedZero w

theorem flagsExplained_none (opc : Byte) : FlagsExplained {} opc := by
  constructor <;> exact nofun

theorem resultExplained_of_flags_none {r : OpResult} (opc : Byte) (hf : r.flags = {})
    (h2 : r.res2 = none) : ResultExplained r opc := by
  constructor
  case flags => rw [hf]; exact flagsExplained_none opc
  all_goals simp [hf, h2]

theorem resultExplained_illegal (opc : Byte) :
    ResultExplained { flags := { illegal := true } } opc := by
  refine ⟨?_, nofun, nofun, nofun, nofun, nofun⟩
  constructor <;> simp

/-- EMPTY stands alone (41_bitfield.md R101, R102). -/
theorem flagsExplained_empty {opc : Byte} (h : opc = 0x01#8 ∨ opc = 0x02#8) :
    FlagsExplained { empty := true } opc := by
  constructor <;> simp [h]

/-- What a mask that is not empty can raise (41_bitfield.md R101, R102). -/
theorem flagsExplained_mask {opc : Byte} {wide gap : Bool} (h : opc = 0x01#8 ∨ opc = 0x02#8)
    (hwide : wide = true → opc = 0x02#8) :
    FlagsExplained { vovf := wide, ncontig := gap } opc := by
  constructor
  case vovf_by => exact hwide
  all_goals simp [h]

theorem resultExplained_fextOp (a b : Word) : ResultExplained (fextOp a b) (opcodeOf .fext) := by
  unfold fextOp
  dsimp only
  split
  · exact ⟨flagsExplained_empty (.inl rfl), nofun, nofun, nofun, nofun, nofun⟩
  · exact ⟨flagsExplained_mask (.inl rfl) nofun, nofun, nofun, nofun, nofun, nofun⟩

theorem resultExplained_finsOp (a b c : Word) :
    ResultExplained (finsOp a b c) (opcodeOf .fins) := by
  unfold finsOp
  dsimp only
  split
  · exact ⟨flagsExplained_empty (.inr rfl), nofun, nofun, nofun, nofun, nofun⟩
  · exact ⟨flagsExplained_mask (.inr rfl) fun _ => rfl, nofun, nofun, nofun, nofun, nofun⟩

theorem resultExplained_vbitsOp (cat : Catalog) (a : Word) :
    ResultExplained (vbitsOp cat a) (opcodeOf .vbits) := by
  unfold vbitsOp
  split
  · refine ⟨?_, fun _ => rfl, nofun, nofun, nofun, nofun⟩
    constructor <;> simp [opcodeOf]
  · exact resultExplained_of_flags_none _ rfl rfl

/-- A bad address or a bad bit leaves RES0 at 0 (41_bitfield.md R104). -/
theorem resultExplained_ffbitOp (cat : Catalog) (a b : Word) :
    ResultExplained (ffbitOp cat a b) (opcodeOf .ffbit) := by
  refine ⟨?_, fun h => ?_, fun h => ?_, nofun, nofun, nofun⟩
  · constructor <;> simp [ffbitOp, opcodeOf]
  · have ha : badAddr a = true := h
    simp [ffbitOp, ha]
  · have hb : badBit b = true := h
    simp [ffbitOp, hb]

theorem resultExplained_drencOp (f : Nat) (a : Word) :
    ResultExplained (drencOp f a) (opcodeOf .drenc) := by
  unfold drencOp
  dsimp only
  split
  · refine ⟨?_, nofun, nofun, fun _ => ⟨rfl, rfl⟩, nofun, nofun⟩
    constructor <;> simp [opcodeOf]
  · refine ⟨?_, nofun, nofun, nofun, nofun, nofun⟩
    constructor <;> simp [opcodeOf]

theorem resultExplained_dvencOp (f : Nat) (a : Word) :
    ResultExplained (dvencOp f a) (opcodeOf .dvenc) := by
  refine ⟨?_, nofun, nofun, nofun, nofun, nofun⟩
  constructor <;> simp [dvencOp, opcodeOf]

theorem sat32_of_saturates {v : Nat} (h : saturates v = true) : sat32 v = 0xFFFF_FFFF#32 :=
  if_pos h

/-- SAT is raised by one of the two outputs, and that one is saturated (43_validator.md R163, R164). -/
theorem resultExplained_validOp (a b c d : Word) :
    ResultExplained (validOp a b c d) (opcodeOf .valid) := by
  refine ⟨?_, nofun, nofun, nofun, fun h => ?_, ?_⟩
  · constructor <;> simp [validOp, opcodeOf]
  · obtain hidx | hsugg := Bool.or_eq_true_iff.1 h
    · exact .inl (congrArg some (sat32_of_saturates hidx))
    · exact .inr (congrArg some (sat32_of_saturates hsugg))
  · rintro w ⟨⟩
    exact res2ReservedZero_resultWord ..

theorem resultExplained_opResult (i : Instr) (s : State) :
    ResultExplained (opResult i s) (opcodeOf i) := by
  cases i with
  | nop => exact resultExplained_of_flags_none _ rfl rfl
  | fext => exact resultExplained_fextOp ..
  | fins => exact resultExplained_finsOp ..
  | vbits => exact resultExplained_vbitsOp ..
  | ffbit => exact resultExplained_ffbitOp ..
  | drenc => exact resultExplained_drencOp ..
  | drdec => exact resultExplained_of_flags_none _ rfl rfl
  | dvenc => exact resultExplained_dvencOp ..
  | dvdec => exact resultExplained_of_flags_none _ rfl rfl
  | valid => exact resultExplained_validOp ..

theorem opcField_encode (i : Instr) : opcField (encode i) = opcodeOf i := by
  cases i <;> rfl

theorem dueResult_of_ok {s : State} {i : Instr} (h : decode s.cmd = .ok i) :
    dueResult s = opResult i s := by
  simp only [dueResult, h]

theorem dueResult_of_error {s : State} {e : Illegal} (h : decode s.cmd = .error e) :
    dueResult s = { flags := { illegal := true } } := by
  simp only [dueResult, h]

theorem resultExplained_dueResult (s : State) : ResultExplained (dueResult s) (opcField s.cmd) := by
  cases h : decode s.cmd with
  | ok i =>
    rw [dueResult_of_ok h, eq_encode_of_decode h, opcField_encode]
    exact resultExplained_opResult i s
  | error e =>
    rw [dueResult_of_error h]
    exact resultExplained_illegal _

/-! ## The invariant -/

theorem wordLatency_pos {p : Params} (h : Params.wf p = true) (w : Word) :
    0 < wordLatency p.latency w := by
  have hlat : Latencies.wf p.latency = true := by
    simp only [Params.wf, Bool.and_eq_true] at h
    exact h.1.2
  simp only [Latencies.wf, decide_eq_true_eq] at hlat
  unfold wordLatency
  split
  · rename_i i _
    cases i <;> simp only [latencyOf] <;> omega
  · omega

/-- `t` has the command, the parameters and the records of `s`; DONE is not set anew and the count of
the command in flight has not risen. -/
structure SameCommand (s t : State) : Prop where
  params : t.params = s.params
  cmd : t.cmd = s.cmd
  flags : t.flags = s.flags
  lastop : t.lastop = s.lastop
  res0 : t.res0 = s.res0
  res1 : t.res1 = s.res1
  res2 : t.res2 = s.res2
  done : t.done = true → s.done = true
  count : ∀ k, t.inflight = some k → ∃ n, s.inflight = some n ∧ k ≤ n

theorem State.Inv.of_sameCommand {s t : State} (h : s.Inv) (hst : SameCommand s t) : t.Inv where
  built := by rw [hst.params]; exact h.built
  busy_clear hb := by
    obtain ⟨k, hk⟩ := (State.busy_eq_true_iff t).1 hb
    obtain ⟨n, hn, -⟩ := hst.count k hk
    obtain ⟨hdone, hflags⟩ := h.busy_clear ((State.busy_eq_true_iff s).2 ⟨n, hn⟩)
    exact ⟨Bool.eq_false_iff.2 fun ht => by simp [hst.done ht] at hdone, hst.flags.trans hflags⟩
  due_in_time k hk := by
    obtain ⟨n, hn, hle⟩ := hst.count k hk
    rw [hst.params, hst.cmd]
    exact hle.trans_lt (h.due_in_time n hn)
  flags_explained := by rw [hst.flags, hst.lastop]; exact h.flags_explained
  causes_recorded := by
    obtain ⟨hba, hbb, hnc, hsat⟩ := h.causes_recorded
    constructor <;> rw [hst.flags] <;> simpa only [hst.res0, hst.res1]
  res2_reserved := by rw [hst.res2]; exact h.res2_reserved

theorem sameCommand_tick (s : State) : SameCommand s (tick s) := by
  refine ⟨rfl, rfl, rfl, rfl, rfl, rfl, rfl, id, fun k hk => ?_⟩
  obtain ⟨n, hn, rfl⟩ := Option.map_eq_some_iff.1 hk
  exact ⟨n, hn, Nat.sub_le n 1⟩

theorem State.Inv.tick {s : State} (h : s.Inv) : (tick s).Inv :=
  h.of_sameCommand (sameCommand_tick s)

/-- The invariant does not speak of the host's list and the bus answer. -/
theorem State.Inv.hostSide {s : State} (h : s.Inv) (ops : List HostOp) (r : Response) :
    State.Inv { s with inputs := ops, response := r } :=
  h.of_sameCommand ⟨rfl, rfl, rfl, rfl, rfl, rfl, rfl, id, fun k hk => ⟨k, hk, le_rfl⟩⟩

/-- Acceptance clears what the invariant asks for, and gives the command its latency
(40_command.md R90). -/
theorem State.Inv.accept {s : State} (h : s.Inv) (w : Word) : (accept w s).Inv where
  built := h.built
  busy_clear _ := ⟨rfl, rfl⟩
  due_in_time := by
    rintro k ⟨⟩
    exact Nat.sub_one_lt (wordLatency_pos h.built w).ne'
  flags_explained := flagsExplained_none _
  causes_recorded := by constructor <;> exact nofun
  res2_reserved := h.res2_reserved

theorem State.Inv.writeOffset {s : State} (h : s.Inv) (off : Nat) (v : Word) :
    (writeOffset off v s).Inv := by
  have keeps {t : State} (ht : SameCommand s t) : t.Inv := h.of_sameCommand ht
  obtain ⟨-, -, h'⟩ | ⟨-, -, h'⟩ | ⟨-, h'⟩ | ⟨-, h'⟩ | ⟨-, h'⟩ | ⟨-, h'⟩ | ⟨-, h'⟩ | ⟨-, h'⟩ |
    ⟨-, h'⟩ := writeOffset_cases off v s <;> rw [h']
  case inr.inl => exact h.accept v
  case inr.inr.inl =>
    exact keeps ⟨rfl, rfl, rfl, rfl, rfl, rfl, rfl, fun hd => (Bool.and_eq_true_iff.1 hd).1,
      fun k hk => ⟨k, hk, le_rfl⟩⟩
  all_goals exact keeps ⟨rfl, rfl, rfl, rfl, rfl, rfl, rfl, id, fun k hk => ⟨k, hk, le_rfl⟩⟩

theorem causesRecorded_complete {s : State} {r : OpResult} {opc : Byte}
    (hr : ResultExplained r opc) (hs : s.flags = {}) : CausesRecorded (complete r s) := by
  constructor <;> simp only [complete_flags, hs, Flags.none_raise] <;> intro hf
  case badaddr_zero => simp [hr.badaddr hf]
  case badbit_zero => simp [hr.badbit hf]
  case nocand_zero => simp [hr.nocand hf]
  case sat_ones => exact (hr.sat hf).imp (fun h0 => by simp [h0]) (fun h1 => by simp [h1])

/-- A completion from the cleared flags of an acceptance leaves the flags its result explains. -/
theorem State.Inv.complete {s : State} (h : s.Inv) (hd : s.inflight = some 0) :
    (complete (dueResult s) s).Inv := by
  obtain ⟨-, hflags⟩ := h.busy_clear ((State.busy_eq_true_iff s).2 ⟨0, hd⟩)
  have hr := resultExplained_dueResult s
  refine ⟨h.built, nofun, nofun, ?_, causesRecorded_complete hr hflags, ?_⟩
  · rw [complete_flags, hflags, Flags.none_raise]
    exact hr.flags
  · rw [complete_res2]
    cases h2 : (dueResult s).res2 with
    | none => exact h.res2_reserved
    | some w => exact hr.res2 w h2

theorem step_keeps_inv {s t : State} (h : s.Inv) (hst : step s = .next t) : t.Inv := by
  by_cases hr : ∃ rest, s.inputs = .reset :: rest
  · obtain ⟨rest, hr⟩ := hr
    rw [step_reset hr, Host.Outcome.next.injEq] at hst
    rw [← hst]
    exact inv_resetWith h.built rest
  obtain ⟨hd, rfl⟩ | ⟨-, r, ops, rfl⟩ | ⟨-, off, v, rest, -, rfl⟩ :=
    step_cases_of_not_reset hst fun rest hin => hr ⟨rest, hin⟩
  · exact h.complete hd
  · exact h.tick.hostSide ops r
  · exact ((h.tick.hostSide rest _).writeOffset off v).hostSide _ _

/-- Settles O57: a reset gives a reset state, a completion records the causes it raises, an acceptance
clears the flags, and every other write and a passing cycle leave the command as it is. -/
theorem everyStepKeepsTheInvariant : Obligations.EveryStepKeepsTheInvariant :=
  fun _ _ => step_keeps_inv

/-! ## What a completion is a function of, and what it keeps -/

/-- A result is a function of the word, the snapshot, the crystal and the catalog (40_command.md
R97). -/
theorem dueResult_congr {s s' : State} (hcmd : s.cmd = s'.cmd) (hA : s.snapA = s'.snapA)
    (hB : s.snapB = s'.snapB) (hC : s.snapC = s'.snapC) (hD : s.snapD = s'.snapD)
    (hf : s.params.fXosc = s'.params.fXosc) (hcat : s.params.catalog = s'.params.catalog) :
    dueResult s = dueResult s' := by
  have hop (i : Instr) : opResult i s = opResult i s' := by
    cases i <;> simp only [opResult, hA, hB, hC, hD, hf, hcat]
  simp only [dueResult, hcmd, hop]

theorem getD_eq_or_kept (o : Option Word) (a b : Word) :
    o.getD a = o.getD b ∨ (o.getD a = a ∧ o.getD b = b) := by
  cases o with
  | none => exact .inr ⟨rfl, rfl⟩
  | some v => exact .inl rfl

/-- Settles O7: both complete with the same result; a register it does not name is kept by both. -/
theorem completionDependsOnWordSnapshotAndParametersOnly :
    Obligations.CompletionDependsOnWordSnapshotAndParametersOnly := by
  unfold Obligations.CompletionDependsOnWordSnapshotAndParametersOnly
  rintro s s' ⟨hd, hr⟩ ⟨hd', hr'⟩ hcmd hA hB hC hD hf hcat hflags hflags'
  refine ⟨_, _, step_due hd hr, step_due hd' hr', ?_⟩
  rw [← dueResult_congr hcmd hA hB hC hD hf hcat]
  exact ⟨by simp only [complete_flags, hflags, hflags'], by simp only [complete_lastop, hcmd],
    getD_eq_or_kept .., getD_eq_or_kept .., getD_eq_or_kept ..⟩

theorem tableOpcode_mem (i : Instr) :
    tableOpcode i ∈ [0x00, 0x01, 0x02, 0x03, 0x04, 0x10, 0x11, 0x12, 0x13, 0x20] := by
  cases i <;> decide

/-- The illegal words of 30_encoding.md R72. -/
theorem decode_eq_error_of_not_listed {w : Word}
    (h : w.toNat / 2 ^ 8 ≠ 0 ∨ w.toNat % 2 ^ 8 ∉
      [0x00, 0x01, 0x02, 0x03, 0x04, 0x10, 0x11, 0x12, 0x13, 0x20]) :
    ∃ e, decode w = .error e := by
  rw [decode_eq_error_iff]
  intro i hi
  obtain ⟨hrsv, hopc⟩ := decode_eq_ok_iff.1 hi
  obtain h | h := h
  · exact h hrsv
  · exact h (hopc ▸ tableOpcode_mem i)

theorem Flags.raise_illegal (f : Flags) : f.raise { illegal := true } = { f with illegal := true } := by
  simp [Flags.raise]

/-- Settles O12: the result of a word the decoder refuses is the flag ILLEGAL. -/
theorem illegalWordCompletesWithIllegalOnly : Obligations.IllegalWordCompletesWithIllegalOnly := by
  unfold Obligations.IllegalWordCompletesWithIllegalOnly
  rintro s ⟨hd, hr⟩ hw
  obtain ⟨e, he⟩ := decode_eq_error_of_not_listed hw
  rw [step_due hd hr, dueResult_of_error he, ← Flags.raise_illegal]
  rfl

theorem opResult_res1_eq_none {i : Instr} (s : State) (hdr : i ≠ .drenc) (hdv : i ≠ .dvenc)
    (hv : i ≠ .valid) : (opResult i s).res1 = none := by
  cases i with
  | nop | ffbit | drdec | dvdec => rfl
  | fext | fins | vbits => exact (apply_ite OpResult.res1 ..).trans (ite_self _)
  | drenc | dvenc | valid => contradiction

theorem opResult_res2_eq_none {i : Instr} (s : State) (hv : i ≠ .valid) :
    (opResult i s).res2 = none := by
  cases i with
  | nop | ffbit | drdec | dvenc | dvdec => rfl
  | fext | fins | vbits => exact (apply_ite OpResult.res2 ..).trans (ite_self _)
  | drenc =>
    simp only [opResult, drencOp]
    split <;> rfl
  | valid => contradiction

theorem Flags.raise_raise (f r : Flags) : f.raise (f.raise r) = f.raise r := by
  simp [Flags.raise]

/-- Settles O14: every command is the shared completion with its result, and a register that result
does not name is kept. -/
theorem completionKeepsWhatItsRuleDoesNotName : Obligations.CompletionKeepsWhatItsRuleDoesNotName := by
  unfold Obligations.CompletionKeepsWhatItsRuleDoesNotName
  intro i s
  refine ⟨_, exec_eq_complete i s, rfl, rfl, rfl, ?nop, ?res1, ?res2, rfl, ?flags⟩
  case nop => rintro rfl; rfl
  case res1 =>
    intro hdr hdv hv
    rw [complete_res1, opResult_res1_eq_none s hdr hdv hv, Option.getD_none]
  case res2 =>
    intro hv
    rw [complete_res2, opResult_res2_eq_none s hv, Option.getD_none]
  case flags => exact (Flags.raise_raise _ _).symm

/-- Settles O13: NOP's result names no register and no flag. -/
theorem nopOnlyCompletes : Obligations.NopOnlyCompletes := by
  unfold Obligations.NopOnlyCompletes
  refine ⟨rfl, fun s => exec_eq_complete .nop s, ?_⟩
  rintro s ⟨hd, hr⟩ hcmd
  have hnop : decode s.cmd = .ok .nop := by rw [hcmd]; exact decode_encode .nop
  have hlast : opcField s.cmd = 0 := by rw [hcmd]; rfl
  rw [step_due hd hr, dueResult_of_ok hnop, opResult, complete, hlast, Flags.raise_none]
  rfl

/-! ## Acceptance, and writes to a busy block -/

theorem decode_of_decodeTableWord {nbits w : Nat} {i : Instr}
    (h : decodeTableWord nbits w = some i) : decode (tableWord nbits w) = .ok i := by
  simp only [decodeTableWord, decodeLanes, wordOfLanes_byteLane] at h
  split at h <;> simp_all

/-- The word of `withFetchWord` is due, and a reset is put off by a cycle (log 3). -/
theorem due_withFetchWord (s : State) (nbits w : Nat) : Due (s.withFetchWord nbits w) := by
  refine ⟨rfl, fun rest h => ?_⟩
  simp only [State.withFetchWord] at h
  split at h
  · cases h
  · exact absurd (inReset_iff.2 ⟨rest, h⟩) ‹_›

/-- Settles O6: the state is due and its word is the command's. -/
theorem fetchWordRunsAsTheNextStep : Obligations.FetchWordRunsAsTheNextStep := by
  unfold Obligations.FetchWordRunsAsTheNextStep
  intro s nbits w i hi
  obtain ⟨hstep, -⟩ := stepRunsTheCommandThatIsDue
  exact ⟨hstep _ i (due_withFetchWord s nbits w) (decode_of_decodeTableWord hi), rfl, rfl, rfl, rfl⟩

theorem writeReg_cmd_of_idle {s : State} (h : s.inflight = none) (w : Word) :
    writeReg .cmd w s = accept w s := by
  simp [writeReg, (State.busy_eq_false_iff s).2 h]

/-- Settles O10: the write is the acceptance. -/
theorem cmdWriteWhileIdleIsAccepted : Obligations.CmdWriteWhileIdleIsAccepted := by
  unfold Obligations.CmdWriteWhileIdleIsAccepted
  intro s w rest hidle h
  have haccept : writeReg .cmd w (dequeue rest s) = accept w (dequeue rest s) :=
    writeReg_cmd_of_idle (s := dequeue rest s) hidle w
  refine ⟨wordLatency s.params.latency w - 1, ?_⟩
  rw [step_writeReg_of_idle .cmd hidle h, haccept]
  rfl

/-- A write in a cycle of a command that is not due: the count goes down by one. -/
theorem step_writeReg_of_busy {s : State} (r : BusReg) {v : Word} {rest : List HostOp} {k : Nat}
    (hk : s.inflight = some (k + 1)) (h : Delivers s r.offset (.write v) rest) :
    step s = .next (answer .ack (writeReg r v { s with inflight := some k, inputs := rest })) := by
  have htick : dequeue rest (tick s) = { s with inflight := some k, inputs := rest } := by
    simp [dequeue, tick, hk]
  rw [step_writeReg r (by simp [hk]) h, htick]

/-- Settles O11: a CMD write to a busy block sets OVERRUN. -/
theorem cmdWriteWhileBusyOnlySetsOverrun : Obligations.CmdWriteWhileBusyOnlySetsOverrun :=
  fun _ _ _ _ hk h => step_writeReg_of_busy .cmd hk h

/-- Settles O18: an operand write updates its own register, whatever is in flight. -/
theorem operandWriteWhileBusyLeavesTheRunningCommand :
    Obligations.OperandWriteWhileBusyLeavesTheRunningCommand :=
  fun _ _ _ _ hk => ⟨step_writeReg_of_busy .opa hk, step_writeReg_of_busy .opb hk,
    step_writeReg_of_busy .opc hk, step_writeReg_of_busy .opd hk⟩

end Sys2Proof.Machine
end

section
/-! The statements of 41_bitfield.md: a field taken from and packed into the span of a mask, bit by bit,
and the searches of the register catalog. -/

namespace Sys2Proof.Claims

/-! ## The span, the field and the replacement as arithmetic -/

/-- A number has one lowest and one highest set bit (41_bitfield.md R100). -/
theorem SpanOf.unique {m lo hi lo' hi' : Nat} (h : SpanOf m lo hi) (h' : SpanOf m lo' hi') :
    lo = lo' ∧ hi = hi' := by
  obtain ⟨-, -, hlo, hhi, hin⟩ := h
  obtain ⟨-, -, hlo', hhi', hin'⟩ := h'
  have := hin lo' hlo'
  have := hin hi' hhi'
  have := hin' lo hlo
  have := hin' hi hhi
  omega

theorem SpanOf.le {m lo hi : Nat} (h : SpanOf m lo hi) : lo ≤ hi := by
  obtain ⟨hle, -⟩ := h
  exact hle

theorem SpanOf.lt_eight {m lo hi : Nat} (h : SpanOf m lo hi) : hi < 8 := by
  obtain ⟨-, hlt, -⟩ := h
  exact hlt

theorem SpanOf.ne_zero {m lo hi : Nat} (h : SpanOf m lo hi) : m ≠ 0 := by
  obtain ⟨-, -, hlo, -⟩ := h
  rintro rfl
  simp at hlo

theorem testBit_fieldOf (byte lo hi k : Nat) :
    (fieldOf byte lo hi).testBit k = (decide (k < hi - lo + 1) && byte.testBit (lo + k)) := by
  rw [fieldOf, Nat.testBit_mod_two_pow, Nat.testBit_div_two_pow, Nat.add_comm lo]

/-- Inside the span the bits are the value's, outside they are the byte's (41_bitfield.md R102). -/
theorem testBit_replaced {lo hi : Nat} (h : lo ≤ hi) (byte v k : Nat) :
    (replaced byte lo hi v).testBit k =
      if lo ≤ k ∧ k ≤ hi then v.testBit (k - lo) else byte.testBit k := by
  have hsplit : replaced byte lo hi v = 2 ^ lo *
      (2 ^ (hi - lo + 1) * (byte / 2 ^ (hi + 1)) + v % 2 ^ (hi - lo + 1)) + byte % 2 ^ lo := by
    rw [replaced, show hi + 1 = lo + (hi - lo + 1) by omega, pow_add]
    ring
  rw [hsplit, Nat.testBit_two_pow_mul_add _ (Nat.mod_lt _ (by positivity))]
  obtain hk | hk := lt_or_ge k lo
  · rw [if_pos hk, if_neg (by omega), Nat.testBit_mod_two_pow]
    simp [hk]
  rw [if_neg (by omega), Nat.testBit_two_pow_mul_add _ (Nat.mod_lt _ (by positivity))]
  obtain hk' | hk' := lt_or_ge hi k
  · rw [if_neg (by omega), if_neg (by omega), Nat.testBit_div_two_pow,
      show k - lo - (hi - lo + 1) + (hi + 1) = k by omega]
  · have hw : k - lo < hi - lo + 1 := by omega
    rw [if_pos hw, if_pos ⟨hk, hk'⟩, Nat.testBit_mod_two_pow]
    simp [hw]

theorem fieldOf_le (byte lo hi : Nat) : fieldOf byte lo hi ≤ byte :=
  (Nat.mod_le _ _).trans (Nat.div_le_self _ _)

theorem replaced_lt {lo hi byte : Nat} (h : lo ≤ hi) (hhi : hi < 8) (hb : byte < 256) (v : Nat) :
    replaced byte lo hi v < 256 := by
  refine Nat.lt_pow_two_of_testBit (n := 8) _ fun k hk => ?_
  rw [testBit_replaced h, if_neg (by omega)]
  exact Nat.testBit_lt_two_pow (hb.trans_le (Nat.pow_le_pow_right two_pos hk))

/-- The field of a replacement is the value it packed (41_bitfield.md R105). -/
theorem fieldOf_replaced {lo hi : Nat} (h : lo ≤ hi) (byte v : Nat) :
    fieldOf (replaced byte lo hi v) lo hi = v % 2 ^ (hi - lo + 1) := by
  apply Nat.eq_of_testBit_eq
  intro k
  rw [testBit_fieldOf, testBit_replaced h, Nat.testBit_mod_two_pow, Nat.add_sub_cancel_left]
  by_cases hk : k < hi - lo + 1
  · rw [if_pos (by omega)]
  · simp [hk]

/-- Packing a byte's own field changes nothing (41_bitfield.md R106). -/
theorem replaced_fieldOf {lo hi : Nat} (h : lo ≤ hi) (byte : Nat) :
    replaced byte lo hi (fieldOf byte lo hi) = byte := by
  apply Nat.eq_of_testBit_eq
  intro k
  rw [testBit_replaced h, testBit_fieldOf]
  split
  next hk =>
    rw [show lo + (k - lo) = k by omega, decide_eq_true (by omega), Bool.true_and]
  next => rfl

end Sys2Proof.Claims

namespace Sys2Proof.Machine

open Sys2Proof.Claims

/-! ## The model's mask operations -/

theorem spanOf_lowest_highest {m : Byte} (h : m ≠ 0) : SpanOf m.toNat (lowest m) (highest m) := by
  obtain ⟨hle, hlt, hlo, hhi, hin⟩ := lowest_highest_spec m h
  exact ⟨hle, hlt, hlo, hhi, fun k hk => hin k (BitVec.lt_of_getLsbD hk) hk⟩

/-- The model's span of a mask is the only one. -/
theorem eq_lowest_highest_of_spanOf {m : Byte} {lo hi : Nat} (h : SpanOf m.toNat lo hi) :
    m ≠ 0 ∧ lo = lowest m ∧ hi = highest m := by
  have hm : m ≠ 0 := by
    rintro rfl
    exact h.ne_zero rfl
  exact ⟨hm, h.unique (spanOf_lowest_highest hm)⟩

theorem maskOperand_eq_zero_iff (b : Word) : maskOperand b = 0 ↔ b.toNat % 256 = 0 := by
  rw [← BitVec.toNat_inj, maskOperand_toNat, BitVec.ofNat_eq_ofNat, BitVec.toNat_ofNat, Nat.zero_mod]

theorem exists_spanOf_of_mask_ne_zero {b : Word} (h : b.toNat % 256 ≠ 0) :
    ∃ lo hi, SpanOf (b.toNat % 256) lo hi := by
  have hspan := spanOf_lowest_highest (mt (maskOperand_eq_zero_iff b).1 h)
  rw [maskOperand_toNat] at hspan
  exact ⟨_, _, hspan⟩

theorem not_contig_eq_hasGap {m : Byte} (h : m ≠ 0) :
    (!contig m) = hasGap m.toNat (lowest m) (highest m) := by
  have hiff : span m = m ↔ m.toNat = (2 ^ width m - 1) * 2 ^ lowest m := by
    rw [← span_toNat m h, ← BitVec.toNat_inj, eq_comm]
  rw [contig, hasGap, ← width, beq_eq_decide, decide_eq_decide.2 hiff, decide_not]

/-- The span holds exactly the bits from the lowest to the highest (41_bitfield.md R100). -/
theorem getLsbD_span {m : Byte} (h : m ≠ 0) (k : Nat) :
    (span m).getLsbD k = decide (lowest m ≤ k ∧ k ≤ highest m) := by
  obtain ⟨hle, -⟩ := lowest_highest_spec m h
  rw [← BitVec.testBit_toNat, span_toNat m h, Nat.testBit_mul_two_pow, Nat.testBit_two_pow_sub_one,
    ← Bool.decide_and]
  exact decide_eq_decide.2 (by unfold width; omega)

/-- FINS's byte bit by bit. -/
theorem testBit_insertField (byte : Byte) {mask : Byte} (h : mask ≠ 0) (val k : Nat) :
    (insertField byte mask val).toNat.testBit k =
      if lowest mask ≤ k ∧ k ≤ highest mask then val.testBit (k - lowest mask)
      else byte.toNat.testBit k := by
  obtain ⟨hle, hlt, -⟩ := lowest_highest_spec mask h
  rw [BitVec.testBit_toNat, insertField]
  simp only [BitVec.getLsbD_or, BitVec.getLsbD_and, BitVec.getLsbD_not, getLsbD_span h]
  split
  next hk =>
    have hk8 : k < 8 := by omega
    have hw : k - lowest mask < width mask := by unfold width; omega
    rw [BitVec.getLsbD_shiftLeft, BitVec.getLsbD_ofNat, Nat.testBit_mod_two_pow]
    simp [hk, hk8, hw, show k - lowest mask < 8 by omega]
  next hk =>
    simpa [hk, BitVec.testBit_toNat] using byte.lt_of_getLsbD

theorem insertField_toNat (byte : Byte) {mask : Byte} (h : mask ≠ 0) (val : Nat) :
    (insertField byte mask val).toNat =
      replaced byte.toNat (lowest mask) (highest mask) val := by
  obtain ⟨hle, -⟩ := lowest_highest_spec mask h
  apply Nat.eq_of_testBit_eq
  intro k
  rw [testBit_insertField byte h, testBit_replaced hle]

/-! ## FEXT and FINS -/

/-- A command's completion is the one with its result. -/
theorem completesWith_of_opResult {i : Instr} {s : State} {r0 r1 r2 : Option Word} {f : Flags}
    (h : opResult i s = { res0 := r0, res1 := r1, res2 := r2, flags := f }) :
    CompletesWith i s r0 r1 r2 f := by
  rw [CompletesWith, exec_eq_complete, h]
  rfl

theorem fextOp_of_empty_mask (a : Word) {b : Word} (h : b.toNat % 256 = 0) :
    fextOp a b = { res0 := some 0, flags := { empty := true } } :=
  if_pos ((maskOperand_eq_zero_iff b).2 h)

theorem fextOp_of_spanOf (a : Word) {b : Word} {lo hi : Nat} (h : SpanOf (b.toNat % 256) lo hi) :
    fextOp a b =
      { res0 := some (BitVec.ofNat 32 (fieldOf (a.toNat % 256) lo hi))
        flags := { ncontig := hasGap (b.toNat % 256) lo hi } } := by
  rw [← maskOperand_toNat] at h ⊢
  obtain ⟨hm, rfl, rfl⟩ := eq_lowest_highest_of_spanOf h
  rw [fextOp, if_neg hm, zext32_eq, extractField_toNat _ hm, not_contig_eq_hasGap hm,
    byteOperand_toNat]
  rfl

theorem finsOp_of_empty_mask (a c : Word) {b : Word} (h : b.toNat % 256 = 0) :
    finsOp a b c = { res0 := some (BitVec.ofNat 32 (a.toNat % 256)), flags := { empty := true } } := by
  rw [finsOp, if_pos ((maskOperand_eq_zero_iff b).2 h), zext32_eq, byteOperand_toNat]

theorem finsOp_of_spanOf (a c : Word) {b : Word} {lo hi : Nat} (h : SpanOf (b.toNat % 256) lo hi) :
    finsOp a b c =
      { res0 := some (BitVec.ofNat 32 (replaced (a.toNat % 256) lo hi c.toNat))
        flags :=
          { vovf := decide (c.toNat ≥ 2 ^ (hi - lo + 1)), ncontig := hasGap (b.toNat % 256) lo hi } } := by
  rw [← maskOperand_toNat] at h ⊢
  obtain ⟨hm, rfl, rfl⟩ := eq_lowest_highest_of_spanOf h
  rw [finsOp, if_neg hm, zext32_eq, insertField_toNat _ hm, not_contig_eq_hasGap hm,
    byteOperand_toNat]
  rfl

/-- Settles O19: with a mask that is not empty FEXT's field is that of the mask's span. -/
theorem fextExtractsTheSpanOfTheMask : Obligations.FextExtractsTheSpanOfTheMask := by
  unfold Obligations.FextExtractsTheSpanOfTheMask
  refine ⟨rfl, ?_⟩
  rintro s _ _ rfl rfl
  exact ⟨fun h => completesWith_of_opResult (fextOp_of_empty_mask _ h), exists_spanOf_of_mask_ne_zero,
    fun _ _ h => completesWith_of_opResult (fextOp_of_spanOf _ h)⟩

/-- Settles O20: with a mask that is not empty FINS replaces the bits of the mask's span. -/
theorem finsReplacesTheSpanOfTheMask : Obligations.FinsReplacesTheSpanOfTheMask := by
  unfold Obligations.FinsReplacesTheSpanOfTheMask
  refine ⟨rfl, ?_⟩
  rintro s _ _ _ rfl rfl rfl
  exact ⟨fun h => completesWith_of_opResult (finsOp_of_empty_mask _ _ h), exists_spanOf_of_mask_ne_zero,
    fun _ _ h => completesWith_of_opResult (finsOp_of_spanOf _ _ h)⟩

/-! ## FEXT after FINS, and FINS after FEXT -/

/-- FEXT's RES0 is a field of a byte, so its 32 bits lose nothing. -/
theorem complete_fext_res0_toNat {s : State} {lo hi : Nat} (h : SpanOf (s.snapB.toNat % 256) lo hi) :
    (complete (opResult .fext s) s).res0.toNat = fieldOf (s.snapA.toNat % 256) lo hi := by
  have hlt : fieldOf (s.snapA.toNat % 256) lo hi < 256 :=
    (fieldOf_le _ lo hi).trans_lt (Nat.mod_lt _ (by norm_num))
  rw [complete_res0, opResult, fextOp_of_spanOf _ h, Option.getD_some, BitVec.toNat_ofNat,
    Nat.mod_eq_of_lt (hlt.trans (by norm_num))]

/-- FINS's RES0 is a byte, so its 32 bits lose nothing. -/
theorem complete_fins_res0_toNat {s : State} {lo hi : Nat} (h : SpanOf (s.snapB.toNat % 256) lo hi) :
    (complete (opResult .fins s) s).res0.toNat =
      replaced (s.snapA.toNat % 256) lo hi s.snapC.toNat := by
  have hlt := replaced_lt h.le h.lt_eight (Nat.mod_lt s.snapA.toNat (by norm_num)) s.snapC.toNat
  rw [complete_res0, opResult, finsOp_of_spanOf _ _ h, Option.getD_some, BitVec.toNat_ofNat,
    Nat.mod_eq_of_lt (hlt.trans (by norm_num))]

/-- Settles O23: the field of the replaced byte is the value modulo the width, and the value fits. -/
theorem fextOfFinsIsTheValue : Obligations.FextOfFinsIsTheValue := by
  unfold Obligations.FextOfFinsIsTheValue
  intro s t lo hi hspan hfit hfins
  rw [exec_eq_complete] at hfins
  obtain rfl := Host.Outcome.next.inj hfins
  refine ⟨_, exec_eq_complete .fext _, BitVec.eq_of_toNat_eq ?_⟩
  have hbyte := replaced_lt hspan.le hspan.lt_eight (Nat.mod_lt s.snapA.toNat (by norm_num)) s.snapC.toNat
  rw [complete_fext_res0_toNat (by exact hspan), complete_fins_res0_toNat hspan,
    Nat.mod_eq_of_lt hbyte, fieldOf_replaced hspan.le, Nat.mod_eq_of_lt hfit]

/-- Settles O24: a bit outside the span is the byte's, and a byte's own field packed back gives the
byte. -/
theorem finsKeepsBitsOutsideTheSpan : Obligations.FinsKeepsBitsOutsideTheSpan := by
  unfold Obligations.FinsKeepsBitsOutsideTheSpan
  intro s lo hi hspan
  refine ⟨⟨_, exec_eq_complete .fins s, fun k hk hout => ?_⟩, fun u hfext => ?_⟩
  · rw [← BitVec.testBit_toNat, complete_fins_res0_toNat hspan, testBit_replaced hspan.le,
      if_neg (by omega), show 256 = 2 ^ 8 by rfl, Nat.testBit_mod_two_pow, decide_eq_true hk,
      Bool.true_and, BitVec.testBit_toNat]
  · rw [exec_eq_complete] at hfext
    obtain rfl := Host.Outcome.next.inj hfext
    refine ⟨_, exec_eq_complete .fins _, ?_⟩
    rw [complete_fins_res0_toNat (by exact hspan), complete_snapA, complete_fext_res0_toNat hspan,
      replaced_fieldOf hspan.le]

/-! ## The catalog -/

theorem badAddr_iff {a : Word} : badAddr a = true ↔ a.toNat > 46 := decide_eq_true_iff

theorem badBit_iff {b : Word} : badBit b = true ↔ b.toNat > 7 := decide_eq_true_iff

/-- A legal catalog has an entry for every address up to 46, of at most 8 fields (10_state.md R30). -/
theorem fieldsOf_spec {cat : Catalog} (hwf : Catalog.wf cat = true) {a : Word} (ha : a.toNat ≤ 46) :
    cat[a.toNat]? = some (fieldsOf cat a) ∧ (fieldsOf cat a).length ≤ 8 := by
  simp only [Catalog.wf, Bool.and_eq_true, beq_iff_eq, List.all_eq_true] at hwf
  obtain ⟨hlen, hentries⟩ := hwf
  have hlt : a.toNat < cat.length := by omega
  have hfields : fieldsOf cat a = cat[a.toNat] := by simp [fieldsOf, hlt]
  have hentry := hentries _ (List.getElem_mem hlt)
  simp only [Catalog.entryWf, Bool.and_eq_true, decide_eq_true_eq] at hentry
  obtain ⟨⟨⟨hcount, -⟩, -⟩, -⟩ := hentry
  rw [hfields]
  exact ⟨List.getElem?_eq_getElem hlt, hcount⟩

theorem getLsbD_foldl_or (ms : List Byte) (v : Byte) (k : Nat) :
    (ms.foldl (fun v m => v ||| m) v).getLsbD k = true ↔
      v.getLsbD k = true ∨ ∃ m ∈ ms, m.getLsbD k = true := by
  induction ms generalizing v with
  | nil => simp
  | cons m ms ih => simp [ih, or_assoc]

theorem getLsbD_zext32 (b : Byte) (k : Nat) : (zext32 b).getLsbD k = b.getLsbD k := by
  rw [zext32, BitVec.getLsbD_setWidth, Bool.and_eq_right_iff_imp, decide_eq_true_eq]
  intro h
  exact (b.lt_of_getLsbD h).trans (by norm_num)

theorem vbitsOp_of_bad {a : Word} (cat : Catalog) (h : a.toNat > 46) :
    vbitsOp cat a = { res0 := some 0, flags := { badaddr := true } } :=
  if_pos (badAddr_iff.2 h)

theorem vbitsOp_of_good {a : Word} (cat : Catalog) (h : a.toNat ≤ 46) :
    vbitsOp cat a = { res0 := some (zext32 ((fieldsOf cat a).foldl (fun v m => v ||| m) 0)) } :=
  if_neg (mt badAddr_iff.1 (not_lt.2 h))

/-- Settles O21: an address up to 46 has an entry, and a bit of the union is a bit of one of its
masks. -/
theorem vbitsIsTheUnionOfTheFields : Obligations.VbitsIsTheUnionOfTheFields := by
  unfold Obligations.VbitsIsTheUnionOfTheFields
  refine ⟨rfl, fun s hwf => ⟨fun h => completesWith_of_opResult (vbitsOp_of_bad _ h), fun h => ?_⟩⟩
  obtain ⟨hentry, -⟩ := fieldsOf_spec hwf h
  refine ⟨_, _, hentry, completesWith_of_opResult (vbitsOp_of_good _ h), fun k => ?_⟩
  rw [getLsbD_zext32, getLsbD_foldl_or]
  simp

theorem ffbitOp_of_bad {a b : Word} (cat : Catalog) (h : a.toNat > 46 ∨ b.toNat > 7) :
    ffbitOp cat a b =
      { res0 := some 0
        flags := { badaddr := decide (a.toNat > 46), badbit := decide (b.toNat > 7) } } := by
  have hbad : (badAddr a || badBit b) = true := by simpa [badAddr_iff, badBit_iff] using h
  rw [ffbitOp, if_pos hbad]
  rfl

/-- With both operands in range FFBIT raises no flag, and its RES0 is the search's answer. -/
theorem ffbitOp_of_good {a b : Word} (cat : Catalog) (ha : a.toNat ≤ 46) (hb : b.toNat ≤ 7) :
    ffbitOp cat a b =
      { res0 := some (((fieldsOf cat a).findIdx? fun m => m.getLsbD b.toNat).elim 0 foundWord) } := by
  have ha' : badAddr a = false := Bool.eq_false_iff.2 (mt badAddr_iff.1 (not_lt.2 ha))
  have hb' : badBit b = false := Bool.eq_false_iff.2 (mt badBit_iff.1 (not_lt.2 hb))
  rw [ffbitOp, ha', hb']
  cases (fieldsOf cat a).findIdx? fun m => m.getLsbD b.toNat <;> rfl

/-- FOUND and FIELD do not overlap (30_encoding.md R82). -/
theorem foundWord_eq {k : Nat} (h : k < 8) : foundWord k = BitVec.ofNat 32 (256 + k) :=
  congrArg (BitVec.ofNat 32) (Nat.two_pow_add_eq_or_of_lt (i := 8) (h.trans (by norm_num)) 1).symm

/-- Settles O22: the search answers nothing if no field holds the bit, else the first that does. -/
theorem ffbitFindsTheFirstFieldWithTheBit : Obligations.FfbitFindsTheFirstFieldWithTheBit := by
  unfold Obligations.FfbitFindsTheFirstFieldWithTheBit
  refine ⟨rfl, ?_⟩
  rintro s _ _ hwf rfl rfl
  refine ⟨fun h => completesWith_of_opResult (ffbitOp_of_bad _ h), fun ha hb => ?_⟩
  obtain ⟨hentry, hlen⟩ := fieldsOf_spec hwf ha
  have hgood := ffbitOp_of_good s.params.catalog ha hb
  refine ⟨_, hentry, fun hnone => ?_, fun k m hk hm hfirst => ?_⟩
  · rw [List.findIdx?_eq_none_iff.2 hnone] at hgood
    exact completesWith_of_opResult hgood
  · obtain ⟨hlt, rfl⟩ := List.getElem?_eq_some_iff.1 hk
    have hk8 : k < 8 := hlt.trans_le hlen
    have hfind : (fieldsOf s.params.catalog s.snapA).findIdx? (fun m => m.getLsbD s.snapB.toNat) =
        some k := by
      refine List.findIdx?_eq_some_iff_getElem.2 ⟨hlt, hm, fun j hj => ?_⟩
      simpa using hfirst j _ hj (List.getElem?_eq_getElem _)
    rw [hfind, Option.elim_some, foundWord_eq hk8] at hgood
    exact ⟨hk8, completesWith_of_opResult hgood⟩

end Sys2Proof.Machine
end

section
/-! The statements of 42_quantizer.md: the distance of a pair from the request as a natural number, which
exponents offer a candidate, and what the two searches answer. -/

namespace Sys2Proof.Machine

open Sys2Proof.Claims

/-! ## Legal parameters -/

theorem fXosc_range_of_wf {p : Params} (h : Params.wf p = true) :
    1000000 ≤ p.fXosc ∧ p.fXosc ≤ 64000000 := by
  simp only [Params.wf, Bool.and_eq_true, decide_eq_true_eq] at h
  obtain ⟨⟨⟨hf, -⟩, -⟩, -⟩ := h
  exact hf

theorem fXosc_pos_of_wf {p : Params} (h : Params.wf p = true) : 0 < p.fXosc := by
  obtain ⟨hlo, -⟩ := fXosc_range_of_wf h
  omega

/-! ## The quantum of an exponent -/

/-- What one step of the mantissa adds to a scaled rate or deviation (42_quantizer.md R130). -/
def quantum (f e : Nat) : Nat := 1000 * f * 2 ^ e

theorem rateScaled_eq (f e m : Nat) : rateScaled f e m = (256 + m) * quantum f e := by
  unfold rateScaled quantum
  ring

theorem devScaled_eq (f e m : Nat) : devScaled f e m = (8 + m) * quantum f e := by
  unfold devScaled quantum
  ring

theorem quantum_pos {f : Nat} (hf : 0 < f) (e : Nat) : 0 < quantum f e := by
  unfold quantum
  positivity

theorem quantum_succ (f e : Nat) : quantum f (e + 1) = 2 * quantum f e := by
  unfold quantum
  ring

theorem quantum_mono {f e e' : Nat} (h : e ≤ e') : quantum f e ≤ quantum f e' :=
  Nat.mul_le_mul_left _ (Nat.pow_le_pow_right two_pos h)

theorem two_mul_quantum_le {f e e' : Nat} (h : e < e') : 2 * quantum f e ≤ quantum f e' :=
  (quantum_succ f e).symm.le.trans (quantum_mono h)

/-- An exponent above another is the next one, or its quantum is at least four times as large. -/
theorem eq_succ_or_four_mul_quantum_le {f e e' : Nat} (h : e < e') :
    e' = e + 1 ∨ 4 * quantum f e ≤ quantum f e' := by
  obtain h | h := Nat.eq_or_lt_of_le (Nat.succ_le_of_lt h)
  · exact .inl h.symm
  · have hnext := two_mul_quantum_le (f := f) h
    rw [Nat.succ_eq_add_one, quantum_succ] at hnext
    exact .inr (by omega)

/-! ## Distances -/

theorem absDiff_cases (a b : Nat) :
    (a ≤ b ∧ absDiff a b = b - a) ∨ (b ≤ a ∧ absDiff a b = a - b) := by
  unfold absDiff
  split <;> omega

/-- Which of two points is nearer is decided by their midpoint. -/
theorem absDiff_le_absDiff_iff {a b x : Nat} (h : a < b) :
    absDiff a x ≤ absDiff b x ↔ 2 * x ≤ a + b := by
  have := absDiff_cases a x
  have := absDiff_cases b x
  omega

theorem absDiff_lt_absDiff_iff {a b x : Nat} (h : a < b) :
    absDiff a x < absDiff b x ↔ 2 * x < a + b := by
  have := absDiff_cases a x
  have := absDiff_cases b x
  omega

theorem absDiff_cast (a b : Nat) : (absDiff a b : ℚ) = |(a : ℚ) - b| := by
  obtain ⟨hle, h⟩ | ⟨hle, h⟩ := absDiff_cases a b
  · rw [h, Nat.cast_sub hle, abs_sub_comm, abs_of_nonneg (sub_nonneg.2 (Nat.cast_le.2 hle))]
  · rw [h, Nat.cast_sub hle, abs_of_nonneg (sub_nonneg.2 (Nat.cast_le.2 hle))]

/-- The pair (e, m) as the data-rate search scores it (42_quantizer.md R131). -/
def ratePair (f r e m : Nat) : Candidate :=
  { e := e, m := m, err := absDiff (rateScaled f e m) (r * 2 ^ 28) }

theorem ratePair_err (f r e m : Nat) :
    (ratePair f r e m).err = absDiff ((256 + m) * quantum f e) (r * 2 ^ 28) := by
  rw [ratePair, rateScaled_eq]

/-- The search's error is the rate's distance from the request, scaled. -/
theorem ratePair_err_cast (f r e m : Nat) :
    ((ratePair f r e m).err : ℚ) = 2 ^ 28 * 1000 * rateErr f r e m := by
  rw [ratePair, absDiff_cast, rateErr, ← abs_of_pos (show (0 : ℚ) < 2 ^ 28 * 1000 by norm_num),
    ← abs_mul, rate, rateScaled]
  push_cast
  congr 1
  ring

theorem devCandidate_err (f d e m : Nat) :
    (devCandidate f d e m).err = absDiff ((8 + m) * quantum f e) (d * 2 ^ 17) := by
  rw [devCandidate, devScaled_eq]

theorem devCandidate_err_cast (f d e m : Nat) :
    ((devCandidate f d e m).err : ℚ) = 2 ^ 17 * 1000 * devErr f d e m := by
  rw [devCandidate, absDiff_cast, devErr, ← abs_of_pos (show (0 : ℚ) < 2 ^ 17 * 1000 by norm_num),
    ← abs_mul, dev, devScaled]
  push_cast
  congr 1
  ring

theorem rateErr_le_iff {f r e m e' m' : Nat} :
    rateErr f r e m ≤ rateErr f r e' m' ↔ (ratePair f r e m).err ≤ (ratePair f r e' m').err := by
  rw [← Nat.cast_le (α := ℚ), ratePair_err_cast, ratePair_err_cast,
    mul_le_mul_iff_right₀ (by norm_num)]

theorem rateErr_lt_iff {f r e m e' m' : Nat} :
    rateErr f r e m < rateErr f r e' m' ↔ (ratePair f r e m).err < (ratePair f r e' m').err := by
  rw [← not_le, rateErr_le_iff, not_le]

theorem devErr_le_iff {f d e m e' m' : Nat} :
    devErr f d e m ≤ devErr f d e' m' ↔
      (devCandidate f d e m).err ≤ (devCandidate f d e' m').err := by
  rw [← Nat.cast_le (α := ℚ), devCandidate_err_cast, devCandidate_err_cast,
    mul_le_mul_iff_right₀ (by norm_num)]

theorem devErr_lt_iff {f d e m e' m' : Nat} :
    devErr f d e m < devErr f d e' m' ↔
      (devCandidate f d e m).err < (devCandidate f d e' m').err := by
  rw [← not_le, devErr_le_iff, not_le]

/-! ## The candidates of DRENC -/

/-- The candidates of R131 are the ones DRENC's search meets. -/
theorem rateCand_iff_mem {f r e m : Nat} :
    RateCand f r e m ↔ ratePair f r e m ∈ (List.range 16).filterMap (rateCandidate f r) := by
  rw [mem_rateCandidates, rateCandidate_eq_some]
  simp [RateCand, ratePair, rhu]

theorem eq_ratePair_of_rateCandidate {f r e : Nat} {c : Candidate} (h : rateCandidate f r e = some c) :
    c = ratePair f r e c.m := by
  obtain ⟨rfl, -, -, herr⟩ := rateCandidate_eq_some.1 h
  rw [ratePair, ← herr]

theorem rateCand_iff_rateCandidate {f r e m : Nat} :
    RateCand f r e m ↔ e < 16 ∧ rateCandidate f r e = some (ratePair f r e m) := by
  rw [rateCand_iff_mem, mem_rateCandidates]
  rfl

theorem isSome_rateCandidate_iff {f r e : Nat} (he : e < 16) :
    (rateCandidate f r e).isSome = true ↔ ∃ m, RateCand f r e m := by
  simp only [Option.isSome_iff_exists, rateCand_iff_rateCandidate, he, true_and]
  constructor
  · rintro ⟨c, hc⟩
    exact ⟨c.m, by rw [← eq_ratePair_of_rateCandidate hc, hc]⟩
  · rintro ⟨m, hm⟩
    exact ⟨_, hm⟩

theorem exponent_lt_of_rateCand {f r e m : Nat} (h : RateCand f r e m) : e < 16 :=
  And.left h

/-- The scaled request in the units of an exponent's division (42_quantizer.md R131). -/
theorem request_split {e : Nat} (he : e < 16) (r : Nat) :
    r * 2 ^ 28 = r * 2 ^ (28 - e) * 2 ^ e := by
  rw [mul_assoc, ← pow_add, Nat.sub_add_cancel (by omega)]

/-- A candidate is a pair whose rate is within half a quantum of the request: R131 without its
division. -/
theorem rateCand_iff {f r e m : Nat} (hf : 0 < f) :
    RateCand f r e m ↔ e < 16 ∧ m < 256 ∧ (511 + 2 * m) * quantum f e ≤ 2 * (r * 2 ^ 28) ∧
      2 * (r * 2 ^ 28) < (513 + 2 * m) * quantum f e := by
  have hround (he : e < 16) (n : Nat) : n ≤ rhu (r * 2 ^ (28 - e)) (1000 * f) ↔
      2 * n * quantum f e ≤ 2 * (r * 2 ^ 28) + quantum f e := by
    rw [le_rhu (by positivity), ← Nat.mul_le_mul_right_iff (Nat.two_pow_pos e), request_split he,
      quantum]
    ring_nf
  have heq (q : Nat) : 256 + m = q ↔ 256 + m ≤ q ∧ ¬ 257 + m ≤ q := by omega
  refine and_congr_right fun he => and_congr_right fun hm => ?_
  rw [heq, ← rhu, hround he, hround he]
  simp only [Nat.mul_add, Nat.add_mul]
  omega

/-- An exponent offers a candidate exactly for the requests in its half-open range (42_quantizer.md
R132). -/
theorem exists_rateCand_iff {f r e : Nat} (hf : 0 < f) (he : e < 16) :
    (∃ m, RateCand f r e m) ↔
      511 * quantum f e ≤ 2 * (r * 2 ^ 28) ∧ 2 * (r * 2 ^ 28) < 1023 * quantum f e := by
  have hq := quantum_pos hf e
  constructor
  · rintro ⟨m, hm⟩
    obtain ⟨-, hm, hlo, hhi⟩ := (rateCand_iff hf).1 hm
    have hle : 511 * quantum f e ≤ (511 + 2 * m) * quantum f e := Nat.mul_le_mul_right _ (by omega)
    have hge : (513 + 2 * m) * quantum f e ≤ 1023 * quantum f e := Nat.mul_le_mul_right _ (by omega)
    omega
  · rintro ⟨hlo, hhi⟩
    have hround := rhu_error (p := r * 2 ^ 28) hq
    set n := rhu (r * 2 ^ 28) (quantum f e)
    have hn : 256 ≤ n := (le_rhu hq 256).2 (by omega)
    have hn' : ¬ 512 ≤ n := fun h => by
      have := (le_rhu hq 512).1 h
      omega
    refine ⟨n - 256, (rateCand_iff hf).2 ⟨he, by omega, ?_, ?_⟩⟩
    · rw [show 511 + 2 * (n - 256) = 2 * n - 1 by omega, Nat.sub_mul]
      omega
    · rw [show 513 + 2 * (n - 256) = 2 * n + 1 by omega, Nat.add_mul]
      have := hround.2
      rw [Nat.mul_add, Nat.add_mul] at this
      omega

/-- The ranges of neighbouring exponents overlap, so together they have no gap (42_quantizer.md
R132). -/
theorem exists_range_of_le_of_lt {f y : Nat} (n : Nat) (hlo : 511 * quantum f 0 ≤ y)
    (hhi : y < 1023 * quantum f n) :
    ∃ e ≤ n, 511 * quantum f e ≤ y ∧ y < 1023 * quantum f e := by
  induction n with
  | zero => exact ⟨0, le_rfl, hlo, hhi⟩
  | succ n ih =>
    by_cases h : y < 1023 * quantum f n
    · obtain ⟨e, he, hrange⟩ := ih h
      exact ⟨e, by omega, hrange⟩
    · have := quantum_succ f n
      exact ⟨n + 1, le_rfl, by omega, hhi⟩

/-- Some exponent offers a candidate exactly inside the achievable range (42_quantizer.md R132). -/
theorem exists_exponent_rateCand_iff {f r : Nat} (hf : 0 < f) :
    (∃ e m, RateCand f r e m) ↔
      511 * quantum f 0 ≤ 2 * (r * 2 ^ 28) ∧ 2 * (r * 2 ^ 28) < 1023 * quantum f 15 := by
  constructor
  · rintro ⟨e, m, h⟩
    have he := exponent_lt_of_rateCand h
    obtain ⟨hlo, hhi⟩ := (exists_rateCand_iff hf he).1 ⟨m, h⟩
    have h0 : quantum f 0 ≤ quantum f e := quantum_mono (by omega)
    have h15 : quantum f e ≤ quantum f 15 := quantum_mono (by omega)
    omega
  · rintro ⟨hlo, hhi⟩
    obtain ⟨e, he, hrange⟩ := exists_range_of_le_of_lt 15 hlo hhi
    exact ⟨e, (exists_rateCand_iff hf (by omega)).2 hrange⟩

/-- A candidate is its exponent's nearest pair: the request is within half a quantum of it. -/
theorem rateCand_err_le_of_same_exponent {f r e m : Nat} (hf : 0 < f) (h : RateCand f r e m)
    (m' : Nat) : (ratePair f r e m).err ≤ (ratePair f r e m').err := by
  obtain ⟨-, -, hlo, hhi⟩ := (rateCand_iff hf).1 h
  have hq := quantum_pos hf e
  rw [ratePair_err, ratePair_err]
  obtain hm | rfl | hm := lt_trichotomy m m'
  · have hstep : (257 + m) * quantum f e ≤ (256 + m') * quantum f e :=
      Nat.mul_le_mul_right _ (by omega)
    rw [absDiff_le_absDiff_iff (Nat.mul_lt_mul_of_pos_right (by omega) hq)]
    simp only [Nat.add_mul, Nat.mul_assoc] at *
    omega
  · exact le_rfl
  · have hstep : (257 + m') * quantum f e ≤ (256 + m) * quantum f e :=
      Nat.mul_le_mul_right _ (by omega)
    rw [← not_lt, absDiff_lt_absDiff_iff (Nat.mul_lt_mul_of_pos_right (by omega) hq), not_lt]
    simp only [Nat.add_mul, Nat.mul_assoc] at *
    omega

/-- A request above an exponent's range: every candidate is of a higher exponent, and no pair of this
one is nearer (42_quantizer.md R136, "too large"). -/
theorem rateCand_err_le_of_above {f r e m e' m' : Nat} (hf : 0 < f) (h : RateCand f r e' m')
    (habove : 1023 * quantum f e ≤ 2 * (r * 2 ^ 28)) (hm : m < 256) :
    (ratePair f r e' m').err ≤ (ratePair f r e m).err := by
  obtain ⟨he', -, hlo, -⟩ := (rateCand_iff hf).1 h
  obtain ⟨-, hhi⟩ := (exists_rateCand_iff hf he').1 ⟨m', h⟩
  have hq := quantum_pos hf e
  have hexp : e < e' := by
    by_contra hle
    have := quantum_mono (f := f) (not_lt.1 hle)
    omega
  have hdouble := two_mul_quantum_le (f := f) hexp
  have hlast : (256 + m) * quantum f e ≤ 511 * quantum f e := Nat.mul_le_mul_right _ (by omega)
  have hfirst : 256 * quantum f e' ≤ (256 + m') * quantum f e' := Nat.mul_le_mul_right _ (by omega)
  rw [ratePair_err, ratePair_err, ← not_lt, absDiff_lt_absDiff_iff (by omega), not_lt]
  obtain rfl | hm' := Nat.eq_zero_or_pos m'
  · obtain rfl | hfour := eq_succ_or_four_mul_quantum_le (f := f) hexp
    · rw [quantum_succ]
      omega
    · omega
  · have hsecond : 257 * quantum f e' ≤ (256 + m') * quantum f e' :=
      Nat.mul_le_mul_right _ (by omega)
    simp only [Nat.add_mul, Nat.mul_assoc] at *
    omega

/-- A request below an exponent's range: every candidate is of a lower exponent, and no pair of this one
is nearer (42_quantizer.md R136, "too small"). -/
theorem rateCand_err_le_of_below {f r e m e' m' : Nat} (hf : 0 < f) (h : RateCand f r e' m')
    (hbelow : 2 * (r * 2 ^ 28) < 511 * quantum f e) :
    (ratePair f r e' m').err ≤ (ratePair f r e m).err := by
  obtain ⟨he', hm', -, hhi⟩ := (rateCand_iff hf).1 h
  obtain ⟨hlo, -⟩ := (exists_rateCand_iff hf he').1 ⟨m', h⟩
  have hq := quantum_pos hf e'
  have hexp : e' < e := by
    by_contra hle
    have := quantum_mono (f := f) (not_lt.1 hle)
    omega
  have hdouble := two_mul_quantum_le (f := f) hexp
  have hfirst : 256 * quantum f e ≤ (256 + m) * quantum f e := Nat.mul_le_mul_right _ (by omega)
  have hlast : (257 + m') * quantum f e' ≤ 512 * quantum f e' := Nat.mul_le_mul_right _ (by omega)
  simp only [Nat.add_mul, Nat.mul_assoc] at *
  rw [ratePair_err, ratePair_err, Nat.add_mul, Nat.add_mul, absDiff_le_absDiff_iff (by omega)]
  omega

/-- Two exponents that both offer a candidate are neighbours; the lower one's is its last pair and the
strictly nearer one (42_quantizer.md R140). -/
theorem rateCand_two_exponents {f r e m e' m' : Nat} (hf : 0 < f) (hlt : e < e')
    (h : RateCand f r e m) (h' : RateCand f r e' m') :
    e' = e + 1 ∧ m = 255 ∧ m' = 0 ∧ 1022 * quantum f e ≤ 2 * (r * 2 ^ 28) ∧
      2 * (r * 2 ^ 28) < 1023 * quantum f e ∧
      (ratePair f r e m).err < (ratePair f r e' m').err := by
  obtain ⟨he, hm, -, hmhi⟩ := (rateCand_iff hf).1 h
  obtain ⟨he', -, hmlo', -⟩ := (rateCand_iff hf).1 h'
  obtain ⟨hlo, hhi⟩ := (exists_rateCand_iff hf he).1 ⟨m, h⟩
  obtain ⟨hlo', hhi'⟩ := (exists_rateCand_iff hf he').1 ⟨m', h'⟩
  have hq := quantum_pos hf e
  obtain rfl : e' = e + 1 := (eq_succ_or_four_mul_quantum_le (f := f) hlt).resolve_right (by omega)
  rw [quantum_succ] at *
  obtain rfl : m = 255 := by
    by_contra hne
    have : (513 + 2 * m) * quantum f e ≤ 1021 * quantum f e := Nat.mul_le_mul_right _ (by omega)
    omega
  obtain rfl : m' = 0 := by
    by_contra hne
    have : 513 * (2 * quantum f e) ≤ (511 + 2 * m') * (2 * quantum f e) :=
      Nat.mul_le_mul_right _ (by omega)
    omega
  refine ⟨rfl, rfl, rfl, by omega, hhi, ?_⟩
  rw [ratePair_err, ratePair_err, quantum_succ, absDiff_lt_absDiff_iff (by omega)]
  omega

/-- Every pair is matched by a candidate, if there is any: by its own exponent's, which is the nearest
there, or else by whichever there is (42_quantizer.md R136). -/
theorem exists_rateCand_err_le {f r e m : Nat} (hf : 0 < f) (he : e < 16) (hm : m < 256)
    {e' m' : Nat} (h : RateCand f r e' m') :
    ∃ e₁ m₁, RateCand f r e₁ m₁ ∧ (ratePair f r e₁ m₁).err ≤ (ratePair f r e m).err := by
  by_cases hlo : 2 * (r * 2 ^ 28) < 511 * quantum f e
  · exact ⟨e', m', h, rateCand_err_le_of_below hf h hlo⟩
  by_cases hhi : 1023 * quantum f e ≤ 2 * (r * 2 ^ 28)
  · exact ⟨e', m', h, rateCand_err_le_of_above hf h hhi hm⟩
  obtain ⟨m₁, h₁⟩ := (exists_rateCand_iff hf he).2 ⟨not_lt.1 hlo, not_le.1 hhi⟩
  exact ⟨e, m₁, h₁, rateCand_err_le_of_same_exponent hf h₁ m⟩

/-! ## What DRENC answers -/

/-- The pair is the best candidate: of least error, and strictly better than every earlier one
(42_quantizer.md R131). -/
def BestRate (f r e m : Nat) : Prop :=
  RateCand f r e m ∧ ∀ e' m', RateCand f r e' m' →
    rateErr f r e m ≤ rateErr f r e' m' ∧ (e' < e → rateErr f r e m < rateErr f r e' m')

/-- The data-rate search meets its candidates in the order of their exponents. -/
theorem pairwise_rateCandidates (f r : Nat) :
    ((List.range 16).filterMap (rateCandidate f r)).Pairwise fun c c' => c.e < c'.e := by
  rw [List.pairwise_filterMap]
  refine List.pairwise_lt_range.imp fun hlt c hc c' hc' => ?_
  obtain ⟨rfl, -⟩ := rateCandidate_eq_some.1 hc
  obtain ⟨rfl, -⟩ := rateCandidate_eq_some.1 hc'
  exact hlt

theorem BestRate.rateCand {f r e m : Nat} (h : BestRate f r e m) : RateCand f r e m :=
  And.left h

theorem BestRate.in_range {f r e m : Nat} (h : BestRate f r e m) : e < 16 ∧ m < 256 := by
  obtain ⟨⟨he, hm, -⟩, -⟩ := h
  exact ⟨he, hm⟩

theorem bestRate_of_firstLeast {f r : Nat} {c : Candidate}
    (h : FirstLeast ((List.range 16).filterMap (rateCandidate f r)) c) : BestRate f r c.e c.m := by
  have hc : c = ratePair f r c.e c.m :=
    eq_ratePair_of_rateCandidate (mem_rateCandidates.1 h.mem).2
  refine ⟨rateCand_iff_mem.2 (by rw [← hc]; exact h.mem), fun e' m' h' => ?_⟩
  have hmem := rateCand_iff_mem.1 h'
  rw [rateErr_le_iff, rateErr_lt_iff, ← hc]
  exact ⟨h.le hmem, fun hlt =>
    h.lt hmem (pairwise_rateCandidates f r) hlt fun _ _ hxy hyx => absurd hxy (by omega)⟩

theorem drwWord_eq {e m : Nat} (he : e < 16) (hm : m < 256) :
    drwWord e m = BitVec.ofNat 32 (m * 2 ^ 8 + e) := by
  rw [← drwWord_toNat he hm, BitVec.ofNat_toNat, BitVec.setWidth_eq]

/-- DRENC's result: the best candidate, or NOCAND if there is none. -/
theorem drencOp_spec (f : Nat) (a : Word) :
    ((¬ ∃ e m, RateCand f a.toNat e m) ∧
      drencOp f a =
        { res0 := some 0, res1 := some 0, flags := { nocand := true, dom := rateOut a.toNat } }) ∨
    ∃ e m, BestRate f a.toNat e m ∧
      drencOp f a =
        { res0 := some (BitVec.ofNat 32 (m * 2 ^ 8 + e))
          res1 := some (BitVec.ofNat 32 (rateMilli f e m)), flags := { dom := rateOut a.toNat } } := by
  obtain ⟨hnone, hno⟩ | ⟨c, hc, hleast⟩ := rateSearch_spec f a.toNat
  · left
    refine ⟨?_, by simp only [drencOp, hnone]; rfl⟩
    rintro ⟨e, m, h⟩
    obtain ⟨he, hcand⟩ := rateCand_iff_rateCandidate.1 h
    exact absurd (hcand.symm.trans (hno e he)) nofun
  · right
    have hbest := bestRate_of_firstLeast hleast
    obtain ⟨he, hm⟩ := hbest.in_range
    exact ⟨c.e, c.m, hbest, by simp only [drencOp, hc, drwWord_eq he hm]; rfl⟩

theorem drencOp_of_none {f : Nat} {a : Word} (h : ¬ ∃ e m, RateCand f a.toNat e m) :
    drencOp f a =
      { res0 := some 0, res1 := some 0, flags := { nocand := true, dom := rateOut a.toNat } } := by
  obtain ⟨-, hop⟩ | ⟨e, m, hbest, -⟩ := drencOp_spec f a
  · exact hop
  · exact absurd ⟨e, m, hbest.rateCand⟩ h

theorem drencOp_of_some {f : Nat} {a : Word} (h : ∃ e m, RateCand f a.toNat e m) :
    ∃ e m, BestRate f a.toNat e m ∧
      drencOp f a =
        { res0 := some (BitVec.ofNat 32 (m * 2 ^ 8 + e))
          res1 := some (BitVec.ofNat 32 (rateMilli f e m)), flags := { dom := rateOut a.toNat } } :=
  (drencOp_spec f a).resolve_left fun hno => hno.1 h

theorem drencOp_dom (f : Nat) (a : Word) : (drencOp f a).flags.dom = rateOut a.toNat := by
  obtain ⟨-, hop⟩ | ⟨_, _, -, hop⟩ := drencOp_spec f a <;> rw [hop]

theorem drencOp_nocand_iff (f : Nat) (a : Word) :
    (drencOp f a).flags.nocand = true ↔ ¬ ∃ e m, RateCand f a.toNat e m := by
  obtain ⟨hno, hop⟩ | ⟨e, m, hbest, hop⟩ := drencOp_spec f a
  · simp [hop, hno]
  · simp only [hop, Bool.false_eq_true, false_iff, not_not]
    exact ⟨e, m, hbest.rateCand⟩

/-- A DRW of 32 bits loses nothing. -/
theorem drw_ofNat_toNat {e m : Nat} (he : e < 16) (hm : m < 256) :
    (BitVec.ofNat 32 (m * 2 ^ 8 + e)).toNat = m * 2 ^ 8 + e := by
  rw [← drwWord_eq he hm, drwWord_toNat he hm]

/-- From cleared flags a completion leaves its own. -/
theorem complete_flags_of_clear {s : State} (h : s.flags = {}) (r : OpResult) :
    (complete r s).flags = r.flags := by
  rw [complete_flags, h, Flags.none_raise]

/-- The best candidate is the nearest of all 4096 pairs (42_quantizer.md R136). -/
theorem BestRate.le_all {f r e m e' m' : Nat} (h : BestRate f r e m) (hf : 0 < f) (he' : e' < 16)
    (hm' : m' < 256) : rateErr f r e m ≤ rateErr f r e' m' := by
  obtain ⟨hcand, hleast⟩ := h
  obtain ⟨e₁, m₁, h₁, hle⟩ := exists_rateCand_err_le hf he' hm' hcand
  exact (hleast e₁ m₁ h₁).1.trans (rateErr_le_iff.2 hle)

/-- Where two exponents offer a candidate, the lower one's is the best. -/
theorem BestRate.eq_of_two_exponents {f r e m e₁ m₁ e₂ m₂ : Nat} (h : BestRate f r e m) (hf : 0 < f)
    (hlt : e₁ < e₂) (h₁ : RateCand f r e₁ m₁) (h₂ : RateCand f r e₂ m₂) : e = e₁ ∧ m = 255 := by
  obtain ⟨hcand, hleast⟩ := h
  obtain ⟨rfl, hm₁, -⟩ := rateCand_two_exponents hf hlt h₁ h₂
  obtain hlow | rfl | hhigh := lt_trichotomy e e₁
  · obtain ⟨hnext, -⟩ := rateCand_two_exponents hf (hlow.trans hlt) hcand h₂
    omega
  · obtain ⟨-, hm, -⟩ := rateCand_two_exponents hf hlt hcand h₂
    exact ⟨rfl, hm⟩
  · obtain ⟨-, -, -, -, -, herr⟩ := rateCand_two_exponents hf hhigh h₁ hcand
    exact absurd (hleast e₁ m₁ h₁).1 (not_le.2 (rateErr_lt_iff.2 herr))

/-- Settles O25: the search answers the best candidate. -/
theorem drencPicksTheBestCandidate : Obligations.DrencPicksTheBestCandidate := by
  unfold Obligations.DrencPicksTheBestCandidate
  refine ⟨rfl, ?_⟩
  rintro s _ _ - rfl rfl
  refine ⟨fun hsome => ?_, fun hnone => completesWith_of_opResult (drencOp_of_none hnone)⟩
  obtain ⟨e, m, ⟨hcand, hleast⟩, hop⟩ := drencOp_of_some hsome
  exact ⟨e, m, hcand, hleast, completesWith_of_opResult hop⟩

/-- Settles O26: the exponents' ranges have no gap, so a candidate is missing only below the first or
above the last. -/
theorem drencHasNoCandidateExactlyOutsideTheRange :
    Obligations.DrencHasNoCandidateExactlyOutsideTheRange := by
  unfold Obligations.DrencHasNoCandidateExactlyOutsideTheRange
  intro s hwf hflags
  refine ⟨_, exec_eq_complete .drenc s, ?_⟩
  have hnocand : (drencOp s.params.fXosc s.snapA).flags.nocand = true ↔
      2 * s.snapA.toNat * 2 ^ 28 < 511 * 1000 * s.params.fXosc ∨
      2 * s.snapA.toNat * 2 ^ 13 ≥ 1023 * 1000 * s.params.fXosc := by
    rw [drencOp_nocand_iff, exists_exponent_rateCand_iff (fXosc_pos_of_wf hwf)]
    unfold quantum
    omega
  simp only [complete_flags_of_clear hflags, opResult, complete_res0, complete_res1]
  refine ⟨hnocand, fun h => ?_, fun h26 => ?_⟩
  · rw [drencOp_of_none ((drencOp_nocand_iff _ _).1 h)]
    exact ⟨rfl, rfl⟩
  · rw [h26] at hnocand ⊢
    rw [← Bool.not_eq_true, hnocand]
    omega

/-- Settles O30: the best candidate is the nearest pair, and RES0 reads back as that pair. -/
theorem drencIsOptimalOverAllPairs : Obligations.DrencIsOptimalOverAllPairs := by
  unfold Obligations.DrencIsOptimalOverAllPairs
  intro s hwf hflags
  refine ⟨_, exec_eq_complete .drenc s, fun hcand e m he hm => ?_⟩
  rw [complete_flags_of_clear hflags, opResult, ← Bool.not_eq_true, drencOp_nocand_iff, not_not]
    at hcand
  obtain ⟨e₀, m₀, hbest, hop⟩ := drencOp_of_some hcand
  obtain ⟨he₀, hm₀⟩ := hbest.in_range
  rw [complete_res0, opResult, hop, Option.getD_some, drw_ofNat_toNat he₀ hm₀,
    show (m₀ * 2 ^ 8 + e₀) % 16 = e₀ by omega, show (m₀ * 2 ^ 8 + e₀) / 2 ^ 8 % 256 = m₀ by omega]
  exact hbest.le_all (fXosc_pos_of_wf hwf) he hm

/-- DRENC where two exponents meet a candidate (42_quantizer.md R140). -/
theorem drenc_of_two_exponents {s : State} {e e' : Nat} (hf : 0 < s.params.fXosc) (hlt : e < e')
    (he' : e' < 16) (h : (rateCandidate s.params.fXosc s.snapA.toNat e).isSome = true)
    (h' : (rateCandidate s.params.fXosc s.snapA.toNat e').isSome = true) :
    ∃ t, exec .drenc s = .next t ∧ t.res0.toNat = 255 * 2 ^ 8 + e := by
  have he : e < 16 := hlt.trans he'
  obtain ⟨m, hm⟩ := (isSome_rateCandidate_iff he).1 h
  obtain ⟨m', hm'⟩ := (isSome_rateCandidate_iff he').1 h'
  obtain ⟨e₀, m₀, hbest, hop⟩ := drencOp_of_some ⟨e, m, hm⟩
  obtain ⟨rfl, rfl⟩ := hbest.eq_of_two_exponents hf hlt hm hm'
  refine ⟨_, exec_eq_complete .drenc s, ?_⟩
  rw [complete_res0, opResult, hop, Option.getD_some, drw_ofNat_toNat he (by norm_num)]

/-- The band of requests for which the exponents 10 and 11 both offer a candidate at 26 MHz
(42_quantizer.md R140). -/
theorem band_at_26MHz (r : Nat) :
    (rateCandidate 26000000 r 10).isSome = true ∧ (rateCandidate 26000000 r 11).isSome = true ↔
      50682068 ≤ r ∧ r ≤ 50731658 := by
  rw [isSome_rateCandidate_iff (by norm_num), isSome_rateCandidate_iff (by norm_num),
    exists_rateCand_iff (by norm_num) (by norm_num), exists_rateCand_iff (by norm_num) (by norm_num)]
  unfold quantum
  omega

/-- What the search meets at an exponent is a candidate of R131, with the scaled distance as its
error. -/
theorem rateCandidate_spec {f r e : Nat} {c : Candidate} (he : e < 16)
    (h : rateCandidate f r e = some c) :
    c.e = e ∧ RateCand f r e c.m ∧ c = ratePair f r e c.m := by
  obtain ⟨hce, -⟩ := rateCandidate_eq_some.1 h
  have hpair := eq_ratePair_of_rateCandidate h
  exact ⟨hce, rateCand_iff_rateCandidate.2 ⟨he, by rw [← hpair, h]⟩, hpair⟩

/-- The band of two candidates in the units of R140: `x` lies in [511, 511.5). -/
theorem two_candidates_band {f r e : Nat} (he : e < 16)
    (hlo : 1022 * quantum f e ≤ 2 * (r * 2 ^ 28)) (hhi : 2 * (r * 2 ^ 28) < 1023 * quantum f e) :
    511 * (1000 * f) ≤ r * 2 ^ (28 - e) ∧ 2 * (r * 2 ^ (28 - e)) < 1023 * (1000 * f) := by
  rw [request_split he, quantum] at hlo hhi
  constructor
  · refine Nat.le_of_mul_le_mul_right ?_ (Nat.two_pow_pos e)
    linarith
  · refine Nat.lt_of_mul_lt_mul_right (a := 2 ^ e) ?_
    linarith

/-- Settles O34: of two exponents that offer a candidate the lower one's is strictly nearer, so it is
the answer. -/
theorem drencCandidatesNeverTie : Obligations.DrencCandidatesNeverTie := by
  unfold Obligations.DrencCandidatesNeverTie
  refine ⟨?one, ?two, fun s e e' hwf => drenc_of_two_exponents (fXosc_pos_of_wf hwf),
    band_at_26MHz, ?example26⟩
  case one =>
    intro f r e c he hc
    obtain ⟨hce, hcand, hpair⟩ := rateCandidate_spec he hc
    refine ⟨hce, hcand, ?_⟩
    rw [← ratePair_err_cast, ← hpair]
  case two =>
    intro f r e e' c c' hf hlt he' hc hc'
    have he : e < 16 := hlt.trans he'
    obtain ⟨-, hcand, hpair⟩ := rateCandidate_spec he hc
    obtain ⟨-, hcand', hpair'⟩ := rateCandidate_spec he' hc'
    obtain ⟨hnext, hm, hm', hlo, hhi, herr⟩ := rateCand_two_exponents hf hlt hcand hcand'
    rw [← hpair, ← hpair'] at herr
    obtain ⟨hx, hx'⟩ := two_candidates_band he hlo hhi
    exact ⟨hnext, hm, hm', hx, hx', herr⟩
  case example26 =>
    intro s hf hA
    obtain ⟨h10, h11⟩ := (band_at_26MHz 50700000).2 ⟨by norm_num, by norm_num⟩
    have hr : s.snapA.toNat = 50700000 := by rw [hA]; rfl
    rw [← hf, ← hr] at h10 h11
    obtain ⟨t, ht, hres⟩ := drenc_of_two_exponents (by omega) (by norm_num) (by norm_num) h10 h11
    exact ⟨t, ht, BitVec.eq_of_toNat_eq hres⟩

/-! ## The candidates of DVENC -/

/-- The order of the deviation search: E outer, M inner (42_quantizer.md R134). -/
def Before (e m e' m' : Nat) : Prop := e < e' ∨ e = e' ∧ m < m'

theorem Before.asymm {e m e' m' : Nat} (h : Before e m e' m') : ¬ Before e' m' e m := by
  unfold Before at *
  omega

theorem pairwise_devCandidates (f d : Nat) :
    ((List.range 8).flatMap fun e => (List.range 8).map (devCandidate f d e)).Pairwise
      fun c c' => Before c.e c.m c'.e c'.m := by
  rw [List.pairwise_flatMap]
  constructor
  · intro e _
    rw [List.pairwise_map]
    exact List.pairwise_lt_range.imp fun hm => .inr ⟨rfl, hm⟩
  · refine List.pairwise_lt_range.imp fun he c hc c' hc' => ?_
    obtain ⟨m, -, rfl⟩ := List.mem_map.1 hc
    obtain ⟨m', -, rfl⟩ := List.mem_map.1 hc'
    exact .inl he

/-- The pair is of least error, and strictly better than every earlier one (42_quantizer.md R134). -/
def BestDev (f d e m : Nat) : Prop :=
  e < 8 ∧ m < 8 ∧ ∀ e' m', e' < 8 → m' < 8 →
    devErr f d e m ≤ devErr f d e' m' ∧
    (Before e' m' e m → devErr f d e m < devErr f d e' m')

theorem bestDev_of_firstLeast {f d : Nat} {c : Candidate}
    (h : FirstLeast ((List.range 8).flatMap fun e => (List.range 8).map (devCandidate f d e)) c) :
    BestDev f d c.e c.m := by
  obtain ⟨he, hm, hc⟩ := mem_devCandidates.1 h.mem
  refine ⟨he, hm, fun e' m' he' hm' => ?_⟩
  have hmem := mem_devCandidates.2 (⟨he', hm', rfl⟩ :
    (devCandidate f d e' m').e < 8 ∧ (devCandidate f d e' m').m < 8 ∧ _)
  rw [devErr_le_iff, devErr_lt_iff, ← hc]
  exact ⟨h.le hmem, fun hlt => h.lt hmem (pairwise_devCandidates f d) hlt fun _ _ => Before.asymm⟩

theorem BestDev.in_range {f d e m : Nat} (h : BestDev f d e m) : e < 8 ∧ m < 8 := by
  obtain ⟨he, hm, -⟩ := h
  exact ⟨he, hm⟩

theorem BestDev.le {f d e m e' m' : Nat} (h : BestDev f d e m) (he' : e' < 8) (hm' : m' < 8) :
    devErr f d e m ≤ devErr f d e' m' := by
  obtain ⟨-, -, hleast⟩ := h
  exact (hleast e' m' he' hm').1

theorem devWord_eq {e m : Nat} (he : e < 8) (hm : m < 8) :
    devWord e m = BitVec.ofNat 32 (e * 2 ^ 4 + m) := by
  rw [← devWord_toNat he hm, BitVec.ofNat_toNat, BitVec.setWidth_eq]

/-- A deviation byte of 32 bits loses nothing. -/
theorem devByte_ofNat_toNat {e m : Nat} (he : e < 8) (hm : m < 8) :
    (BitVec.ofNat 32 (e * 2 ^ 4 + m)).toNat = e * 2 ^ 4 + m := by
  rw [← devWord_eq he hm, devWord_toNat he hm]

/-- DVENC's result: the best pair. -/
theorem dvencOp_eq_of_best (f : Nat) (a : Word) :
    ∃ e m, BestDev f a.toNat e m ∧
      dvencOp f a =
        { res0 := some (BitVec.ofNat 32 (e * 2 ^ 4 + m))
          res1 := some (BitVec.ofNat 32 (devMilli f e m)), flags := { dom := devOut a.toNat } } := by
  obtain ⟨c, hc, hleast⟩ := devSearch_spec f a.toNat
  have hbest := bestDev_of_firstLeast hleast
  obtain ⟨he, hm⟩ := hbest.in_range
  exact ⟨c.e, c.m, hbest, by simp only [dvencOp, hc, Option.getD_some, devWord_eq he hm]; rfl⟩

/-- Settles O28: the search answers the best pair. -/
theorem dvencPicksTheFirstBestPair : Obligations.DvencPicksTheFirstBestPair := by
  unfold Obligations.DvencPicksTheFirstBestPair
  refine ⟨rfl, ?_⟩
  rintro s _ _ rfl rfl
  obtain ⟨e, m, ⟨he, hm, hleast⟩, hop⟩ := dvencOp_eq_of_best s.params.fXosc s.snapA
  exact ⟨e, m, he, hm, hleast, completesWith_of_opResult hop⟩

/-! ## Ties of DVENC -/

/-- A later pair's deviation is greater by at least a quantum: 15 quanta of an exponent are followed by
the next exponent's 8 of twice the size (42_quantizer.md R137). -/
theorem nine_add_quantum_le_of_before {f e m e' m' : Nat} (hm : m < 8) (h : Before e m e' m') :
    (9 + m) * quantum f e ≤ (8 + m') * quantum f e' := by
  obtain he | ⟨rfl, hlt⟩ := h
  · calc (9 + m) * quantum f e ≤ 16 * quantum f e := Nat.mul_le_mul_right _ (by omega)
      _ ≤ 8 * quantum f e' := by have := two_mul_quantum_le (f := f) he; omega
      _ ≤ (8 + m') * quantum f e' := Nat.mul_le_mul_right _ (by omega)
  · exact Nat.mul_le_mul_right _ (by omega)

/-- The pair that follows a pair in the search is a quantum above it. -/
theorem exists_next_pair {f e m e' m' : Nat} (hm : m < 8) (he' : e' < 8) (hm' : m' < 8)
    (h : Before e m e' m') :
    ∃ e₁ m₁, e₁ < 8 ∧ m₁ < 8 ∧ (8 + m₁) * quantum f e₁ = (9 + m) * quantum f e := by
  unfold Before at h
  by_cases hlast : m = 7
  · refine ⟨e + 1, 0, by omega, by norm_num, ?_⟩
    rw [quantum_succ, hlast]
    ring
  · refine ⟨e, m + 1, by omega, by omega, ?_⟩
    ring

/-- A tie of the best pair with a later one puts the request exactly half a quantum above the best:
the later pair is the next one (42_quantizer.md R137). -/
theorem BestDev.midpoint_of_tie {f d e m e' m' : Nat} (h : BestDev f d e m) (hf : 0 < f)
    (he' : e' < 8) (hm' : m' < 8) (hlater : Before e m e' m')
    (htie : devErr f d e' m' = devErr f d e m) :
    (17 + 2 * m) * quantum f e = 2 * (d * 2 ^ 17) := by
  obtain ⟨-, hm⟩ := h.in_range
  have hq := quantum_pos hf e
  obtain ⟨e₁, m₁, he₁, hm₁, hnext⟩ := exists_next_pair (f := f) hm he' hm' hlater
  have hle := nine_add_quantum_le_of_before (f := f) hm hlater
  have hbest := devErr_le_iff.1 (h.le he₁ hm₁)
  have htie' := devErr_le_iff.1 htie.le
  have hbest' := devErr_le_iff.1 (h.le he' hm')
  simp only [devCandidate_err, hnext] at hbest htie' hbest'
  simp only [Nat.add_mul, Nat.mul_assoc] at *
  rw [absDiff_le_absDiff_iff (by omega)] at hbest hbest'
  rw [← not_lt, absDiff_lt_absDiff_iff (by omega), not_lt] at htie'
  omega

theorem dev_eq (f e m : Nat) : dev f e m = (((8 + m) * quantum f e : ℕ) : ℚ) / (2 ^ 17 * 1000) := by
  unfold dev quantum
  push_cast
  ring

theorem dev_le_of_before {f e m e' m' : Nat} (hm : m < 8) (h : Before e m e' m') :
    dev f e m ≤ dev f e' m' := by
  have hle := nine_add_quantum_le_of_before (f := f) hm h
  have hle' : (8 + m) * quantum f e ≤ (9 + m) * quantum f e := Nat.mul_le_mul_right _ (by omega)
  rw [dev_eq, dev_eq]
  exact div_le_div_of_nonneg_right (Nat.cast_le.2 (hle'.trans hle)) (by norm_num)

/-- A pair that ties with the best one is the best one or a later one. -/
theorem BestDev.eq_or_later_of_tie {f d e m e' m' : Nat} (h : BestDev f d e m) (he' : e' < 8)
    (hm' : m' < 8) (htie : devErr f d e' m' = devErr f d e m) :
    (e' = e ∧ m' = m) ∨ Before e m e' m' := by
  obtain ⟨-, -, hleast⟩ := h
  have hnot : ¬ Before e' m' e m := fun hbefore => ((hleast e' m' he' hm').2 hbefore).ne' htie
  unfold Before at *
  omega

/-- At 26 MHz the request would have more factors of 2 than a midpoint has (42_quantizer.md R137). -/
theorem no_midpoint_at_26MHz {d e m : Nat} (he : e < 8) :
    (17 + 2 * m) * quantum 26000000 e ≠ 2 * (d * 2 ^ 17) := by
  unfold quantum
  interval_cases e <;> omega

theorem dvenc_res0_readback {s : State} {e m : Nat} (he : e < 8) (hm : m < 8)
    (h : (opResult .dvenc s).res0 = some (BitVec.ofNat 32 (e * 2 ^ 4 + m))) :
    (complete (opResult .dvenc s) s).res0.toNat / 2 ^ 4 % 8 = e ∧
      (complete (opResult .dvenc s) s).res0.toNat % 8 = m := by
  rw [complete_res0, h, Option.getD_some, devByte_ofNat_toNat he hm]
  omega

/-- 1024 and 1152 Hz are both 64 Hz from 1088 Hz (42_quantizer.md R137). -/
theorem tie_at_16777216Hz : devErr 16777216 1088000 0 0 = devErr 16777216 1088000 0 1 := by
  norm_num [devErr, dev]

/-- Settles O31: a pair that ties with the answer is a later one, so its deviation is greater; then the
request is a midpoint, which at 26 MHz none is. -/
theorem dvencIsOptimalAndTiesGoDown : Obligations.DvencIsOptimalAndTiesGoDown := by
  unfold Obligations.DvencIsOptimalAndTiesGoDown
  constructor
  · intro s hwf
    refine ⟨_, exec_eq_complete .dvenc s, fun e m he hm => ?_⟩
    obtain ⟨e₀, m₀, hbest, hop⟩ := dvencOp_eq_of_best s.params.fXosc s.snapA
    obtain ⟨he₀, hm₀⟩ := hbest.in_range
    obtain ⟨hE, hM⟩ := dvenc_res0_readback he₀ hm₀ (congrArg OpResult.res0 hop)
    dsimp only
    rw [hE, hM]
    refine ⟨hbest.le he hm, fun htie => ?_, fun h26 htie => ?_⟩
    · obtain ⟨rfl, rfl⟩ | hlater := hbest.eq_or_later_of_tie he hm htie
      · exact le_rfl
      · exact dev_le_of_before hm₀ hlater
    · refine (hbest.eq_or_later_of_tie he hm htie).resolve_right fun hlater => ?_
      have hmid := hbest.midpoint_of_tie (fXosc_pos_of_wf hwf) he hm hlater htie
      rw [h26] at hmid
      exact no_midpoint_at_26MHz he₀ hmid
  · intro s hf hA
    refine ⟨tie_at_16777216Hz, _, exec_eq_complete .dvenc s, ?_⟩
    have hop : (dvencOp 16777216 1088000#32).res0 = some 0 := by decide
    rw [complete_res0, opResult, hf, hA, hop, Option.getD_some]

/-! ## Bounds of the results, DRDEC and DVDEC -/

theorem rateMilli_le_max {e m : Nat} (f : Nat) (he : e < 16) (hm : m < 256) :
    rateMilli f e m ≤ rateMilli f 15 255 := by
  unfold rateMilli
  gcongr <;> omega

theorem devMilli_le_max {e m : Nat} (f : Nat) (he : e < 8) (hm : m < 8) :
    devMilli f e m ≤ devMilli f 7 7 := by
  unfold devMilli
  gcongr <;> omega

theorem rateMilli_max_le {f : Nat} (hf : f ≤ 64000000) : rateMilli f 15 255 ≤ 3992187500 := by
  unfold rateMilli
  omega

theorem devMilli_max_le {f : Nat} (hf : f ≤ 64000000) : devMilli f 7 7 ≤ 937500000 := by
  unfold devMilli
  omega

theorem word_ofNat_toNat_of_le {v n : Nat} (h : v ≤ n) (hn : n < 2 ^ 32) :
    (BitVec.ofNat 32 v).toNat = v := by
  rw [BitVec.toNat_ofNat, Nat.mod_eq_of_lt (h.trans_lt hn)]

/-- With a legal crystal a rate is not truncated. -/
theorem rateMilli_ofNat_toNat {f e m : Nat} (hf : f ≤ 64000000) (he : e < 16) (hm : m < 256) :
    (BitVec.ofNat 32 (rateMilli f e m)).toNat = rateMilli f e m :=
  word_ofNat_toNat_of_le ((rateMilli_le_max f he hm).trans (rateMilli_max_le hf)) (by norm_num)

/-- With a legal crystal a deviation is not truncated. -/
theorem devMilli_ofNat_toNat {f e m : Nat} (hf : f ≤ 64000000) (he : e < 8) (hm : m < 8) :
    (BitVec.ofNat 32 (devMilli f e m)).toNat = devMilli f e m :=
  word_ofNat_toNat_of_le ((devMilli_le_max f he hm).trans (devMilli_max_le hf)) (by norm_num)

theorem drdecOp_eq (f : Nat) (a : Word) :
    drdecOp f a =
      { res0 := some (BitVec.ofNat 32 (rateMilli f (a.toNat % 16) (a.toNat / 2 ^ 8 % 256))) } := by
  rw [drdecOp, drwE_eq, drwM_eq]
  rfl

theorem dvdecOp_eq (f : Nat) (a : Word) :
    dvdecOp f a =
      { res0 := some (BitVec.ofNat 32 (devMilli f (a.toNat / 2 ^ 4 % 8) (a.toNat % 8))) } := by
  rw [dvdecOp, devE_byteOperand, devM_byteOperand]
  rfl

/-- Settles O27: the rate of the pair in A, which fits. -/
theorem drdecIsTheRateOfThePair : Obligations.DrdecIsTheRateOfThePair := by
  unfold Obligations.DrdecIsTheRateOfThePair
  refine ⟨rfl, fun s hwf => ⟨_, ?_, completesWith_of_opResult (drdecOp_eq _ _)⟩⟩
  obtain ⟨-, hf⟩ := fXosc_range_of_wf hwf
  exact rateMilli_ofNat_toNat hf (Nat.mod_lt _ (by norm_num)) (Nat.mod_lt _ (by norm_num))

/-- Settles O29: the deviation of the byte in A, which fits. -/
theorem dvdecIsTheDeviationOfTheByte : Obligations.DvdecIsTheDeviationOfTheByte := by
  unfold Obligations.DvdecIsTheDeviationOfTheByte
  refine ⟨rfl, fun s hwf => ⟨_, ?_, completesWith_of_opResult (dvdecOp_eq _ _)⟩⟩
  obtain ⟨-, hf⟩ := fXosc_range_of_wf hwf
  exact devMilli_ofNat_toNat hf (Nat.mod_lt _ (by norm_num)) (Nat.mod_lt _ (by norm_num))

/-! ## Flags of the quantizer -/

theorem decodeOpcode_opcodeOf (i : Instr) : decodeOpcode (opcodeOf i) = .ok i := by
  cases i <;> rfl

theorem opcodeOf_injective : Function.Injective opcodeOf := by
  intro i j h
  have hi := decodeOpcode_opcodeOf i
  rw [h, decodeOpcode_opcodeOf] at hi
  exact (Except.ok.inj hi).symm

/-- Only VALID raises SAT (60_exceptions.md R190). -/
theorem opResult_sat {i : Instr} (s : State) (hv : i ≠ .valid) : (opResult i s).flags.sat = false :=
  Bool.eq_false_iff.2 fun h =>
    hv (opcodeOf_injective ((resultExplained_opResult i s).flags.sat_by h))

/-- Only DRENC and DVENC raise DOM (42_quantizer.md R138). -/
theorem opResult_dom {i : Instr} (s : State) (hr : i ≠ .drenc) (hd : i ≠ .dvenc) :
    (opResult i s).flags.dom = false :=
  Bool.eq_false_iff.2 fun h =>
    ((resultExplained_opResult i s).flags.dom_by h).elim (fun h => hr (opcodeOf_injective h))
      fun h => hd (opcodeOf_injective h)

/-- Settles O33: a result is the rounded value of a pair, at most that of the last pair, or DRENC's 0. -/
theorem quantizerResultsFitIn32Bits : Obligations.QuantizerResultsFitIn32Bits := by
  unfold Obligations.QuantizerResultsFitIn32Bits
  constructor
  · intro f e m _ hf
    exact ⟨fun he hm => ⟨rateMilli_le_max f he hm, rateMilli_max_le hf⟩,
      fun he hm => ⟨devMilli_le_max f he hm, devMilli_max_le hf⟩⟩
  intro s hwf hflags
  obtain ⟨-, hf⟩ := fXosc_range_of_wf hwf
  refine ⟨_, _, _, _, exec_eq_complete .drenc s, ?drenc, ?drencSat, exec_eq_complete .drdec s, ?drdec,
    ?drdecSat, exec_eq_complete .dvenc s, ?dvenc, ?dvencSat, exec_eq_complete .dvdec s, ?dvdec,
    ?dvdecSat⟩
  case drencSat | drdecSat | dvencSat | dvdecSat =>
    rw [complete_flags_of_clear hflags]
    exact opResult_sat s nofun
  case drenc =>
    rw [complete_res1, opResult]
    obtain ⟨-, hop⟩ | ⟨e, m, hbest, hop⟩ := drencOp_spec s.params.fXosc s.snapA
    · rw [hop]
      exact Nat.zero_le _
    · obtain ⟨he, hm⟩ := hbest.in_range
      rw [hop, Option.getD_some, rateMilli_ofNat_toNat hf he hm]
      exact rateMilli_le_max _ he hm
  case drdec =>
    rw [complete_res0, opResult, drdecOp_eq, Option.getD_some]
    have he := Nat.mod_lt s.snapA.toNat (y := 16) (by norm_num)
    have hm := Nat.mod_lt (s.snapA.toNat / 2 ^ 8) (y := 256) (by norm_num)
    rw [rateMilli_ofNat_toNat hf he hm]
    exact rateMilli_le_max _ he hm
  case dvenc =>
    obtain ⟨e, m, hbest, hop⟩ := dvencOp_eq_of_best s.params.fXosc s.snapA
    obtain ⟨he, hm⟩ := hbest.in_range
    rw [complete_res1, opResult, hop, Option.getD_some, devMilli_ofNat_toNat hf he hm]
    exact devMilli_le_max _ he hm
  case dvdec =>
    rw [complete_res0, opResult, dvdecOp_eq, Option.getD_some]
    have he := Nat.mod_lt (s.snapA.toNat / 2 ^ 4) (y := 8) (by norm_num)
    have hm := Nat.mod_lt s.snapA.toNat (y := 8) (by norm_num)
    rw [devMilli_ofNat_toNat hf he hm]
    exact devMilli_le_max _ he hm

/-- Settles O32: DRENC and DVENC compare with the bounds, and no other command raises DOM. -/
theorem domainIsReportedInclusively : Obligations.DomainIsReportedInclusively := by
  unfold Obligations.DomainIsReportedInclusively
  intro s hflags
  refine ⟨_, _, _, _, _, exec_eq_complete .drenc s, ?drenc, exec_eq_complete .dvenc s, ?dvenc,
    exec_eq_complete .drdec s, ?drdec, exec_eq_complete .dvdec s, ?dvdec, exec_eq_complete .valid s,
    ?valid⟩
  case drdec | dvdec | valid =>
    rw [complete_flags_of_clear hflags]
    exact opResult_dom s nofun nofun
  case drenc =>
    rw [complete_flags_of_clear hflags, opResult, drencOp_dom]
    exact decide_eq_true_iff
  case dvenc =>
    obtain ⟨_, _, -, hop⟩ := dvencOp_eq_of_best s.params.fXosc s.snapA
    rw [complete_flags_of_clear hflags, opResult, hop]
    exact decide_eq_true_iff

end Sys2Proof.Machine
end

section
/-! The statements of 43_validator.md: the warning list as the table's conditions over ℚ, the fields of
RES2 read back from the list, and the two saturating results. -/

namespace Sys2Proof.Machine

open Sys2Proof.Claims

/-! ## The class of a modulation code and the exact index -/

theorem modClass_modOperand (d : Word) :
    modClass (modOperand d) =
      if d.toNat % 8 = 3 then .ook else if d.toNat % 8 = 4 then .four else .two := by
  unfold modClass
  rw [modOperand_toNat]
  split <;> simp_all

theorem suggested_modClass (d : Word) (dev rate : Nat) :
    suggested (modClass (modOperand d)) dev rate = suggestion (d.toNat % 8) dev rate := by
  rw [modClass_modOperand]
  unfold suggestion
  split_ifs <;> rfl

theorem reportedIndex_modClass (d : Word) (dev rate : Nat) :
    reportedIndex (modClass (modOperand d)) dev rate = indexFixed (d.toNat % 8) dev rate := by
  rw [modClass_modOperand]
  by_cases h3 : d.toNat % 8 = 3
  · simp [h3, reportedIndex, indexFixed]
  · by_cases h4 : d.toNat % 8 = 4 <;> simp [h3, h4, reportedIndex, indexFixed, rhu]

theorem index_zero_rate (dev : Nat) : index dev 0 = 0 := if_pos rfl

/-- A comparison of cross products is one of quotients (00_scope.md R12). -/
theorem Ratio.lt_iff {a b : Ratio} (ha : 0 < a.den) (hb : 0 < b.den) :
    a.lt b = true ↔ (a.num : ℚ) / a.den < b.num / b.den := by
  rw [div_lt_div_iff₀ (by exact_mod_cast ha) (by exact_mod_cast hb)]
  exact decide_eq_true_iff.trans (by norm_cast)

theorem modIndex_den_pos (dev rate : Nat) : 0 < (modIndex dev rate).den := by
  unfold modIndex
  split_ifs with h
  · exact Nat.one_pos
  · exact Nat.pos_of_ne_zero h

theorem modIndex_eq_index (dev rate : Nat) :
    ((modIndex dev rate).num : ℚ) / (modIndex dev rate).den = index dev rate := by
  unfold modIndex index
  split_ifs <;> simp

theorem modIndex_lt_iff {dev rate n k : Nat} (hk : 0 < k) :
    (modIndex dev rate).lt ⟨n, k⟩ = true ↔ index dev rate < n / k := by
  rw [Ratio.lt_iff (modIndex_den_pos dev rate) hk, modIndex_eq_index]

theorem lt_modIndex_iff {dev rate n k : Nat} (hk : 0 < k) :
    Ratio.lt ⟨n, k⟩ (modIndex dev rate) = true ↔ n / k < index dev rate := by
  rw [Ratio.lt_iff hk (modIndex_den_pos dev rate), modIndex_eq_index]

/-! ## Which warnings are in the list -/

theorem mem_indexWarnings_iff {dev rate : Nat} {w : Warning} :
    w ∈ indexWarnings (modIndex dev rate) ↔
      w = .idxVeryLow ∧ index dev rate < 3 / 10 ∨
      w = .idxLow ∧ 3 / 10 ≤ index dev rate ∧ index dev rate < 1 / 2 ∨
      w = .idxWideband ∧ 2 < index dev rate := by
  have h3 : (modIndex dev rate).lt ⟨3, 10⟩ = true ↔ index dev rate < 3 / 10 :=
    modIndex_lt_iff (by norm_num)
  have h5 : (modIndex dev rate).lt ⟨1, 2⟩ = true ↔ index dev rate < 1 / 2 := by
    simpa using modIndex_lt_iff (n := 1) (k := 2) (by norm_num)
  have h2 : Ratio.lt ⟨2, 1⟩ (modIndex dev rate) = true ↔ 2 < index dev rate := by
    simpa using lt_modIndex_iff (n := 2) (k := 1) (by norm_num)
  simp only [indexWarnings, h3, h5, h2]
  split_ifs with hlow hmid hwide
  · have hwide : ¬ 2 < index dev rate := by linarith
    simp [hlow, hlow.not_ge, hwide]
  · have hwide : ¬ 2 < index dev rate := by linarith
    simp [hlow, not_lt.1 hlow, hmid, hwide, -one_div]
  · simp [hlow, hmid, hwide, -one_div]
  · simp [hlow, hmid, hwide, -one_div]

theorem mem_minimumWarnings_two_iff {bw dev : Nat} {w : Warning} :
    w ∈ minimumWarnings false bw dev ↔ w = .bwBelow2xDev ∧ bw < 2 * dev := by
  simp [minimumWarnings, and_comm]

theorem mem_minimumWarnings_four_iff {bw dev : Nat} {w : Warning} :
    w ∈ minimumWarnings true bw dev ↔ w = .bwBelow6xDev ∧ bw < 6 * dev := by
  simp [minimumWarnings, and_comm]

theorem mem_carsonWarnings_iff {bw sugg : Nat} {w : Warning} :
    w ∈ carsonWarnings bw sugg ↔
      w = .bwBelowCarson ∧ (bw : ℚ) < 8 / 10 * sugg ∨ w = .bwExcess ∧ bw > 3 * sugg := by
  have hcarson : (bw : ℚ) < 8 / 10 * sugg ↔ 5 * bw < 4 * sugg := by
    rw [← Nat.cast_lt (α := ℚ)]
    push_cast
    constructor <;> intro h <;> linarith
  rw [hcarson]
  unfold carsonWarnings
  split_ifs with hlow hhigh
  · have hhigh : ¬ 3 * sugg < bw := by omega
    simp [hlow, hhigh]
  · simp [hlow, hhigh]
  · simp [hlow, hhigh]

theorem mem_fourLevelWarnings_iff {four : Bool} {dev rate : Nat} {w : Warning} :
    w ∈ fourLevelWarnings four (modIndex dev rate) ↔
      w = .idx4LevelLow ∧ four = true ∧ index dev rate < 8 / 10 := by
  have h8 : (modIndex dev rate).lt ⟨4, 5⟩ = true ↔ index dev rate < 8 / 10 := by
    rw [modIndex_lt_iff (by norm_num)]
    norm_num
  simp [fourLevelWarnings, h8, and_comm]

theorem warnings_ook (bw dev rate : Nat) :
    warnings .ook bw dev rate = if bw < 2 * rate then [.ookBwLow] else [] := rfl

theorem mem_warnings_ook_iff {bw dev rate : Nat} {w : Warning} :
    w ∈ warnings .ook bw dev rate ↔ w = .ookBwLow ∧ bw < 2 * rate := by
  rw [warnings_ook]
  split <;> simp_all

/-- The list holds Wk exactly when the table's condition of Wk holds (43_validator.md R161, R162). -/
theorem mem_warnings_iff {bw dev rate : Nat} {d : Word} {w : Warning} :
    w ∈ warnings (modClass (modOperand d)) bw dev rate ↔
      Emitted (d.toNat % 8) bw dev rate w.number := by
  rw [modClass_modOperand]
  by_cases h3 : d.toNat % 8 = 3
  · cases w <;> simp [h3, mem_warnings_ook_iff, Emitted, Warning.number, suggestion]
  by_cases h4 : d.toNat % 8 = 4
  · cases w <;> simp [h4, warnings, Emitted, Warning.number, suggested, suggestion,
      mem_indexWarnings_iff, mem_minimumWarnings_four_iff, mem_carsonWarnings_iff,
      mem_fourLevelWarnings_iff]
  · cases w <;> simp [h3, h4, warnings, Emitted, Warning.number, suggested, suggestion,
      mem_indexWarnings_iff, mem_minimumWarnings_two_iff, mem_carsonWarnings_iff,
      mem_fourLevelWarnings_iff]

/-- The list is in the table's order, with nothing twice (43_validator.md R162). -/
theorem map_number_warnings_sublist (cls : ModClass) (bw dev rate : Nat) :
    ((warnings cls bw dev rate).map Warning.number).Sublist (List.range' 1 9) := by
  have index (idx : Ratio) : ((indexWarnings idx).map Warning.number).Sublist [2, 3, 4] := by
    unfold indexWarnings
    split_ifs <;> decide
  have minimum (four : Bool) : ((minimumWarnings four bw dev).map Warning.number).Sublist [5, 6] := by
    unfold minimumWarnings
    cases four <;> split_ifs <;> decide
  have carson (sugg : Nat) : ((carsonWarnings bw sugg).map Warning.number).Sublist [7, 8] := by
    unfold carsonWarnings
    split_ifs <;> decide
  have fourLevel (four : Bool) (idx : Ratio) :
      ((fourLevelWarnings four idx).map Warning.number).Sublist [9] := by
    unfold fourLevelWarnings
    split_ifs <;> decide
  have grouped (four : Bool) (idx : Ratio) (sugg : Nat) :
      ((indexWarnings idx ++ minimumWarnings four bw dev ++ carsonWarnings bw sugg ++
        fourLevelWarnings four idx).map Warning.number).Sublist (List.range' 1 9) := by
    simp only [List.map_append]
    exact ((((index idx).append (minimum four)).append (carson sugg)).append
      (fourLevel four idx)).trans (by decide)
  cases cls with
  | ook =>
    rw [warnings_ook]
    split <;> decide
  | four => exact grouped ..
  | two => exact grouped ..

/-! ## The fields of RES2 -/

theorem Warning.exists_iff {p : Warning → Prop} :
    (∃ w, p w) ↔ p .ookBwLow ∨ p .idxVeryLow ∨ p .idxLow ∨ p .idxWideband ∨ p .bwBelow2xDev ∨
      p .bwBelow6xDev ∨ p .bwBelowCarson ∨ p .bwExcess ∨ p .idx4LevelLow := by
  constructor
  · rintro ⟨w, hw⟩
    cases w <;> simp [hw]
  · rintro (h | h | h | h | h | h | h | h | h) <;> exact ⟨_, h⟩

/-- The warnings in the table's order (43_validator.md R161). -/
def warningTable : List Warning :=
  [.ookBwLow, .idxVeryLow, .idxLow, .idxWideband, .bwBelow2xDev, .bwBelow6xDev, .bwBelowCarson,
    .bwExcess, .idx4LevelLow]

theorem warningTable_getElem? (w : Warning) : warningTable[w.number - 1]? = some w := by
  cases w <;> rfl

/-- Two warnings do not share a bit of WMAP (30_encoding.md R81). -/
theorem Warning.eq_of_bit_eq {v w : Warning} (h : v.number - 1 = w.number - 1) : v = w := by
  have hv := warningTable_getElem? v
  rw [h, warningTable_getElem? w] at hv
  exact (Option.some.inj hv).symm

theorem Warning.bit_lt (w : Warning) : w.number - 1 < 9 := by
  cases w <;> decide

theorem Warning.exists_number_eq {k : Nat} (h1 : 1 ≤ k) (h9 : k ≤ 9) :
    ∃ w : Warning, w.number = k := by
  rw [Warning.exists_iff]
  simp only [Warning.number]
  omega

theorem testBit_foldl_warnMap (ws : List Warning) (m i : Nat) :
    (ws.foldl (fun m w => m ||| 1 <<< (w.number - 1)) m).testBit i = true ↔
      m.testBit i = true ∨ ∃ w ∈ ws, w.number - 1 = i := by
  induction ws generalizing m with
  | nil => simp
  | cons w ws ih =>
    rw [List.foldl_cons, ih]
    simp [Nat.one_shiftLeft, Nat.testBit_two_pow, or_assoc]

theorem testBit_warnMap {ws : List Warning} {w : Warning} :
    (warnMap ws).testBit (w.number - 1) = true ↔ w ∈ ws := by
  rw [warnMap, testBit_foldl_warnMap]
  constructor
  · rintro (h | ⟨v, hv, hbit⟩)
    · simp at h
    · rwa [← Warning.eq_of_bit_eq hbit]
  · exact fun h => .inr ⟨w, h, rfl⟩

theorem lt_foldl_maxSeverity (ws : List Warning) (m n : Nat) :
    n < ws.foldl (fun m w => max m w.severity.code) m ↔
      n < m ∨ ∃ w ∈ ws, n < w.severity.code := by
  induction ws generalizing m with
  | nil => simp
  | cons w ws ih => simp [ih, or_assoc]

theorem lt_maxSeverity_iff {ws : List Warning} {n : Nat} :
    n < maxSeverity ws ↔ ∃ w ∈ ws, n < w.severity.code := by
  simp [maxSeverity, lt_foldl_maxSeverity]

theorem isValid_iff {ws : List Warning} :
    isValid ws = true ↔ .bwBelow2xDev ∉ ws ∧ .bwBelow6xDev ∉ ws := by
  have herr : isValid ws = true ↔ ¬ ∃ w, w ∈ ws ∧ w.severity = .error := by simp [isValid]
  rw [herr, Warning.exists_iff]
  simp [Warning.severity]

theorem two_lt_maxSeverity_iff {ws : List Warning} :
    2 < maxSeverity ws ↔ .bwBelow2xDev ∈ ws ∨ .bwBelow6xDev ∈ ws := by
  rw [lt_maxSeverity_iff, Warning.exists_iff]
  simp [Warning.severity, Severity.code]

theorem one_lt_maxSeverity_iff {ws : List Warning} :
    1 < maxSeverity ws ↔ .ookBwLow ∈ ws ∨ .idxVeryLow ∈ ws ∨ .bwBelow2xDev ∈ ws ∨
      .bwBelow6xDev ∈ ws ∨ .bwBelowCarson ∈ ws ∨ .idx4LevelLow ∈ ws := by
  rw [lt_maxSeverity_iff, Warning.exists_iff]
  simp [Warning.severity, Severity.code]

theorem maxSeverity_pos_iff {ws : List Warning} : 0 < maxSeverity ws ↔ ∃ w, w ∈ ws := by
  rw [lt_maxSeverity_iff, Warning.exists_iff, Warning.exists_iff]
  simp [Warning.severity, Severity.code]

/-- MAXSEV as a number: the classes of the table's column "severity" (43_validator.md R161, R165). -/
theorem maxSeverity_eq (ws : List Warning) :
    maxSeverity ws =
      if .bwBelow2xDev ∈ ws ∨ .bwBelow6xDev ∈ ws then 3
      else if .ookBwLow ∈ ws ∨ .idxVeryLow ∈ ws ∨ .bwBelowCarson ∈ ws ∨ .idx4LevelLow ∈ ws then 2
      else if .idxLow ∈ ws ∨ .idxWideband ∈ ws ∨ .bwExcess ∈ ws then 1
      else 0 := by
  have hlt := maxSeverity_lt ws
  have herror := two_lt_maxSeverity_iff (ws := ws)
  have hwarning := one_lt_maxSeverity_iff (ws := ws)
  have hinfo := maxSeverity_pos_iff (ws := ws)
  rw [Warning.exists_iff] at hinfo
  split_ifs <;> grind

/-- RES2 as a number, for the list of a command (30_encoding.md R81). -/
theorem resultWord_toNat {ws : List Warning} (h : ws.length < 8) :
    (resultWord ws).toNat =
      maxSeverity ws * 2 ^ 17 + (isValid ws).toNat * 2 ^ 16 + ws.length * 2 ^ 12 + warnMap ws :=
  validWord_toNat (maxSeverity_lt ws) (Bool.toNat_lt _) h (warnMap_lt ws)

/-- RES2 field by field (30_encoding.md R81). -/
theorem resultWord_fields {ws : List Warning} (h : ws.length < 8) :
    (resultWord ws).toNat % 2 ^ 9 = warnMap ws ∧ (resultWord ws).toNat / 2 ^ 9 % 8 = 0 ∧
      (resultWord ws).toNat / 2 ^ 12 % 8 = ws.length ∧ (resultWord ws).getLsbD 15 = false ∧
      (resultWord ws).getLsbD 16 = isValid ws ∧
      (resultWord ws).toNat / 2 ^ 17 % 4 = maxSeverity ws ∧ (resultWord ws).toNat / 2 ^ 19 = 0 := by
  have hs := maxSeverity_lt ws
  have hm := warnMap_lt ws
  have hv := Bool.toNat_lt (isValid ws)
  have hword := resultWord_toNat h
  have hvalid : (isValid ws).toNat = 1 ↔ isValid ws = true := by simp
  refine ⟨by omega, by omega, by omega, ?_, ?_, by omega, by omega⟩
  · rw [← BitVec.testBit_toNat, Nat.testBit_eq_decide_div_mod_eq, decide_eq_false_iff_not]
    omega
  · rw [← BitVec.testBit_toNat, Nat.testBit_eq_decide_div_mod_eq, Bool.eq_iff_iff,
      decide_eq_true_iff, ← hvalid]
    omega

theorem warned_resultWord {ws : List Warning} (h : ws.length < 8) (w : Warning) :
    warned (resultWord ws) w.number = true ↔ w ∈ ws := by
  obtain ⟨hmap, -⟩ := resultWord_fields h
  rw [← testBit_warnMap, ← hmap, Nat.testBit_mod_two_pow, warned, ← BitVec.testBit_toNat,
    decide_eq_true w.bit_lt, Bool.true_and]

theorem isValid_iff_warned {ws : List Warning} (h : ws.length < 8) :
    isValid ws = true ↔
      warned (resultWord ws) 5 = false ∧ warned (resultWord ws) 6 = false := by
  rw [isValid_iff, ← warned_resultWord h, ← warned_resultWord h]
  simp only [Warning.number, Bool.not_eq_true]

/-- Bits 8:0 of the word of an ordered list mark its members, once each: as many as it is long. -/
theorem countP_warned_resultWord {ws : List Warning} (h : ws.length < 8)
    (hord : (ws.map Warning.number).Sublist (List.range' 1 9)) :
    (List.range' 1 9).countP (warned (resultWord ws)) = ws.length := by
  have hnodup : (List.range' 1 9).Nodup := List.nodup_range'
  have hperm : ((List.range' 1 9).filter (warned (resultWord ws))).Perm (ws.map Warning.number) := by
    refine (List.perm_ext_iff_of_nodup (hnodup.filter _) (hord.nodup hnodup)).2 fun k => ?_
    rw [List.mem_filter, List.mem_map]
    constructor
    · rintro ⟨hk, hwarned⟩
      obtain ⟨h1, h9⟩ := List.mem_range'_1.1 hk
      obtain ⟨w, rfl⟩ := Warning.exists_number_eq h1 (by omega)
      exact ⟨w, (warned_resultWord h w).1 hwarned, rfl⟩
    · rintro ⟨w, hw, rfl⟩
      exact ⟨hord.subset (List.mem_map_of_mem hw), (warned_resultWord h w).2 hw⟩
  rw [List.countP_eq_length_filter, hperm.length_eq, List.length_map]

/-! ## The completion of VALID -/

/-- The warning list of VALID in a state whose snapshot is taken (43_validator.md R162). -/
def snapWarnings (s : State) : List Warning :=
  warnings (modClass (modOperand s.snapD)) s.snapA.toNat s.snapB.toNat s.snapC.toNat

theorem opResult_valid (s : State) :
    opResult .valid s =
      { res0 := some (sat32 (indexFixed (s.snapD.toNat % 8) s.snapB.toNat s.snapC.toNat))
        res1 := some (sat32 (suggestion (s.snapD.toNat % 8) s.snapB.toNat s.snapC.toNat))
        res2 := some (resultWord (snapWarnings s))
        flags :=
          { sat := decide (indexFixed (s.snapD.toNat % 8) s.snapB.toNat s.snapC.toNat ≥ 2 ^ 32 ∨
              suggestion (s.snapD.toNat % 8) s.snapB.toNat s.snapC.toNat ≥ 2 ^ 32) } } := by
  simp only [opResult, validOp, reportedIndex_modClass, suggested_modClass, snapWarnings, saturates,
    Bool.decide_or, ge_iff_le]

theorem length_snapWarnings_lt (s : State) : (snapWarnings s).length < 8 :=
  Nat.lt_of_le_of_lt (length_warnings_le ..) (by norm_num)

/-- Wk stands in RES2 exactly when its condition holds (43_validator.md R161). -/
theorem warned_snapWarnings_iff (s : State) {k : Nat} (h1 : 1 ≤ k) (h9 : k ≤ 9) :
    warned (resultWord (snapWarnings s)) k = true ↔
      Emitted (s.snapD.toNat % 8) s.snapA.toNat s.snapB.toNat s.snapC.toNat k := by
  obtain ⟨w, rfl⟩ := Warning.exists_number_eq h1 h9
  exact (warned_resultWord (length_snapWarnings_lt s) w).trans mem_warnings_iff

theorem emitted_of_warned {s : State} {k : Nat} (h : warned (resultWord (snapWarnings s)) k = true)
    (hk : 1 ≤ k ∧ k ≤ 9 := by decide) :
    Emitted (s.snapD.toNat % 8) s.snapA.toNat s.snapB.toNat s.snapC.toNat k :=
  (warned_snapWarnings_iff s hk.1 hk.2).1 h

/-- Settles O36: the two outputs are the exact values cut off at the largest word. -/
theorem validReportsIndexAndSuggestedBandwidth :
    Obligations.ValidReportsIndexAndSuggestedBandwidth := by
  unfold Obligations.ValidReportsIndexAndSuggestedBandwidth
  refine ⟨rfl, ?_⟩
  rintro s _ _ _ _ rfl rfl rfl rfl
  exact ⟨_, _, _, completesWith_of_opResult (opResult_valid s), sat32_toNat _, sat32_toNat _⟩

/-- Settles O37: bits 8:0 mark the list's members, and each other field is a function of them. -/
theorem validResultWordIsTheWarningTable : Obligations.ValidResultWordIsTheWarningTable := by
  unfold Obligations.ValidResultWordIsTheWarningTable
  rintro s _ rfl
  have hlen := length_snapWarnings_lt s
  obtain ⟨-, hrsv, hcount, h15, h16, hsev, htop⟩ := resultWord_fields hlen
  refine ⟨_, exec_eq_complete .valid s, ?_⟩
  rw [complete_res2, opResult_valid, Option.getD_some]
  refine ⟨fun k h1 h9 => warned_snapWarnings_iff s h1 h9, ?count, ?valid, ?severity, hrsv, h15, htop⟩
  case count => rw [hcount, countP_warned_resultWord hlen (map_number_warnings_sublist ..)]
  case valid => rw [h16, isValid_iff_warned hlen]
  case severity => simp only [hsev, maxSeverity_eq, ← warned_resultWord hlen, Warning.number]


/-! ## Limits on the warning map -/

theorem length_warnings_ook_le (bw dev rate : Nat) : (warnings .ook bw dev rate).length ≤ 1 := by
  rw [warnings_ook]
  split <;> simp

/-- W9 is not for two levels (43_validator.md R162). -/
theorem length_warnings_two_le (bw dev rate : Nat) : (warnings .two bw dev rate).length ≤ 3 := by
  have hi := length_indexWarnings_le (modIndex dev rate)
  have hm := length_minimumWarnings_le false bw dev
  have hc := length_carsonWarnings_le bw (suggested .two dev rate)
  have hf : fourLevelWarnings false (modIndex dev rate) = [] := rfl
  simp only [warnings, hf, List.length_append, List.length_nil]
  omega

theorem four_levels_of_length_eq_four {s : State} (h : (snapWarnings s).length = 4) :
    s.snapD.toNat % 8 = 4 := by
  by_contra h4
  rw [snapWarnings, modClass_modOperand, if_neg h4] at h
  split_ifs at h
  · have := length_warnings_ook_le s.snapA.toNat s.snapB.toNat s.snapC.toNat
    omega
  · have := length_warnings_two_le s.snapA.toNat s.snapB.toNat s.snapC.toNat
    omega

/-- Under OOK only W1 is possible (43_validator.md R167). -/
theorem not_emitted_of_ook (bw dev rate : Nat) {k : Nat} (h2 : 2 ≤ k) (h9 : k ≤ 9) :
    ¬ Emitted 3 bw dev rate k := by
  interval_cases k <;> simp [Emitted]

/-- W7 and W8 lie on two sides of the suggestion (43_validator.md R167). -/
theorem not_emitted_carson_and_excess (mod bw dev rate : Nat) :
    ¬ (Emitted mod bw dev rate 7 ∧ Emitted mod bw dev rate 8) := by
  rintro ⟨⟨-, hlow⟩, -, hhigh⟩
  have hhigh' : (3 * suggestion mod dev rate : ℚ) < bw := by exact_mod_cast hhigh
  have hpos : (0 : ℚ) ≤ suggestion mod dev rate := Nat.cast_nonneg _
  linarith

theorem not_emitted_veryLow_and_low (mod bw dev rate : Nat) :
    ¬ (Emitted mod bw dev rate 2 ∧ Emitted mod bw dev rate 3) :=
  fun ⟨⟨_, hlow⟩, _, hge, _⟩ => not_lt_of_ge hge hlow

/-- W4 needs an index above 2, and W2, W3 and W9 one below 1 (43_validator.md R167). -/
theorem not_emitted_below_and_wideband (mod bw dev rate : Nat) {k : Nat} (hk : k ∈ [2, 3, 9]) :
    ¬ (Emitted mod bw dev rate k ∧ Emitted mod bw dev rate 4) := by
  rintro ⟨hlow, -, hwide⟩
  have hlt : index dev rate < 1 := by
    simp only [List.mem_cons, List.not_mem_nil, or_false] at hk
    obtain rfl | rfl | rfl := hk
    · obtain ⟨-, hidx⟩ := hlow
      exact hidx.trans (by norm_num)
    · obtain ⟨-, -, hidx⟩ := hlow
      exact hidx.trans (by norm_num)
    · obtain ⟨-, hidx⟩ := hlow
      exact hidx.trans (by norm_num)
  linarith

theorem warned_eq_false_of_ook {s : State} (h3 : s.snapD.toNat % 8 = 3) {k : Nat} (h2 : 2 ≤ k)
    (h9 : k ≤ 9) : warned (resultWord (snapWarnings s)) k = false := by
  refine Bool.eq_false_iff.2 fun h => ?_
  have hk := emitted_of_warned h ⟨by omega, h9⟩
  rw [h3] at hk
  exact not_emitted_of_ook _ _ _ h2 h9 hk

theorem flags_none_or_sat (b : Bool) :
    ({ sat := b } : Flags) = {} ∨ ({ sat := b } : Flags) = { sat := true } := by
  cases b
  · exact .inl rfl
  · exact .inr rfl

/-- Settles O38: each limit is one on the conditions, and the count is the list's length. -/
theorem validWarningMapLimits : Obligations.ValidWarningMapLimits := by
  unfold Obligations.ValidWarningMapLimits
  rintro s _ rfl hflags
  have hlen := length_snapWarnings_lt s
  obtain ⟨-, -, hcount, -, h16, -⟩ := resultWord_fields hlen
  refine ⟨_, exec_eq_complete .valid s, ?flags, ?_⟩
  case flags =>
    rw [complete_flags_of_clear hflags, opResult_valid]
    exact flags_none_or_sat _
  rw [complete_res2, opResult_valid, Option.getD_some]
  refine ⟨fun h3 => ⟨fun k h2 h9 => ?ook, ?ookValid⟩, fun h3 => ?notOok,
    fun ⟨h2, h3⟩ => ?index23, fun ⟨h2, h4⟩ => ?index24, fun ⟨h3, h4⟩ => ?index34,
    fun ⟨h5, h6⟩ => ?minimum, fun ⟨h7, h8⟩ => ?carson, fun h5 => ?twoLevels, fun h6 => ?sixDev,
    fun h9 => ?fourLevels, fun ⟨h4, h9⟩ => ?wideband, ?count, fun h4 => ?countFour⟩
  case ook => exact warned_eq_false_of_ook h3 h2 h9
  case ookValid =>
    rw [h16, isValid_iff_warned hlen]
    exact ⟨warned_eq_false_of_ook h3 (by norm_num) (by norm_num),
      warned_eq_false_of_ook h3 (by norm_num) (by norm_num)⟩
  case notOok => exact Bool.eq_false_iff.2 fun h => h3 (emitted_of_warned h).1
  case index23 =>
    exact not_emitted_veryLow_and_low _ _ _ _ ⟨emitted_of_warned h2, emitted_of_warned h3⟩
  case index24 =>
    exact not_emitted_below_and_wideband _ _ _ _ (by decide)
      ⟨emitted_of_warned h2, emitted_of_warned h4⟩
  case index34 =>
    exact not_emitted_below_and_wideband _ _ _ _ (by decide)
      ⟨emitted_of_warned h3, emitted_of_warned h4⟩
  case minimum =>
    obtain ⟨-, hnot4, -⟩ := emitted_of_warned h5
    exact hnot4 (emitted_of_warned h6).1
  case carson =>
    exact not_emitted_carson_and_excess _ _ _ _ ⟨emitted_of_warned h7, emitted_of_warned h8⟩
  case twoLevels =>
    obtain ⟨-, hnot4, -⟩ := emitted_of_warned h5
    exact hnot4
  case sixDev => exact (emitted_of_warned h6).1
  case fourLevels => exact (emitted_of_warned h9).1
  case wideband =>
    exact not_emitted_below_and_wideband _ _ _ _ (by decide)
      ⟨emitted_of_warned h9, emitted_of_warned h4⟩
  case count => exact hcount ▸ length_warnings_le ..
  case countFour => exact four_levels_of_length_eq_four (hcount ▸ h4)

/-- Settles O39: the index of a rate of 0 is 0, below the thresholds of W2 and W9. -/
theorem validWithZeroRate : Obligations.ValidWithZeroRate := by
  unfold Obligations.ValidWithZeroRate
  constructor
  · rintro s _ rfl h3 hC
    have hrate : s.snapC.toNat = 0 := by rw [hC]; rfl
    refine ⟨_, exec_eq_complete .valid s, ?res0, ?w2, fun h4 => ?w9, ?res1⟩
    all_goals rw [opResult_valid]
    case res0 => simp [hrate, indexFixed, sat32, saturates]
    case w2 =>
      refine (warned_snapWarnings_iff s (by norm_num) (by norm_num)).2 ⟨h3, ?_⟩
      norm_num [hrate, index_zero_rate]
    case w9 =>
      refine (warned_snapWarnings_iff s (by norm_num) (by norm_num)).2 ⟨h4, ?_⟩
      norm_num [hrate, index_zero_rate]
    case res1 =>
      rw [complete_res1, Option.getD_some, sat32_toNat, hrate, suggestion, if_neg h3]
      split_ifs <;> rfl
  · intro s hA hB hC hD
    refine ⟨_, exec_eq_complete .valid s, ?_⟩
    have hop : opResult .valid s =
        { res0 := some 0, res1 := some 0, res2 := some 0x0005_1002#32 } := by
      rw [opResult, hA, hB, hC, hD]
      decide
    rw [hop]
    exact ⟨rfl, rfl, rfl⟩

end Sys2Proof.Machine
end

section
/-! The statements of 60_exceptions.md: what a step does to OVERRUN and to IRQ, the causes a command can
raise, a command's run from its acceptance to its completion, and the flags of a completion as the
conditions of R190's table. -/

namespace Sys2Proof.Machine

open Sys2Proof.Claims

/-! ## OVERRUN and IRQ -/

/-- Everything a step that gives a next state can do: a reset, a completion, a cycle in which only the
model's own fields and the in-flight count move, or a 32-bit write to an offset of the aperture. -/
theorem step_cases_reset_or_due {s t : State} (h : step s = .next t) :
    (∃ rest, s.inputs = .reset :: rest ∧ t = applyReset rest s) ∨
    (Due s ∧ t = complete (dueResult s) s) ∨
    (∃ r ops, t = answer r (dequeue ops (tick s))) ∨
    (∃ off v rest, Delivers s off (.write v) rest ∧
      t = answer .ack (writeOffset off v (dequeue rest (tick s)))) := by
  by_cases hr : ∃ rest, s.inputs = .reset :: rest
  · obtain ⟨rest, hr⟩ := hr
    exact .inl ⟨rest, hr, Host.Outcome.next.inj (h.symm.trans (step_reset hr))⟩
  have hr : ∀ rest, s.inputs ≠ .reset :: rest := fun rest hin => hr ⟨rest, hin⟩
  obtain ⟨hd, ht⟩ | ⟨-, hquiet⟩ | ⟨-, hwrite⟩ := step_cases_of_not_reset h hr
  · exact .inr (.inl ⟨⟨hd, hr⟩, ht⟩)
  · exact .inr (.inr (.inl hquiet))
  · exact .inr (.inr (.inr hwrite))

theorem writeOffset_overrun (off : Nat) (v : Word) (s : State) :
    (writeOffset off v s).overrun =
      if off = 0x00 then s.overrun || s.busy
      else if off = 0x04 then s.overrun && !v.getLsbD 2 else s.overrun := by
  obtain ⟨ho, hb, h⟩ | ⟨ho, hb, h⟩ | ⟨ho, h⟩ | ⟨ho, h⟩ | ⟨ho, h⟩ | ⟨ho, h⟩ | ⟨ho, h⟩ | ⟨ho, h⟩ |
    ⟨ho, h⟩ := writeOffset_cases off v s <;> rw [h] <;> simp_all

/-- A write to CMD clears DONE when it is accepted (40_command.md R90), one to STATUS where it holds a 1. -/
theorem writeOffset_done (off : Nat) (v : Word) (s : State) :
    (writeOffset off v s).done =
      if off = 0x00 then s.done && s.busy
      else if off = 0x04 then s.done && !v.getLsbD 1 else s.done := by
  obtain ⟨ho, hb, h⟩ | ⟨ho, hb, h⟩ | ⟨ho, h⟩ | ⟨ho, h⟩ | ⟨ho, h⟩ | ⟨ho, h⟩ | ⟨ho, h⟩ | ⟨ho, h⟩ |
    ⟨ho, h⟩ := writeOffset_cases off v s <;> rw [h] <;> simp_all

theorem writeOffset_ien (off : Nat) (v : Word) (s : State) :
    (writeOffset off v s).ien = if off = 0x08 then v.getLsbD 0 else s.ien := by
  obtain ⟨ho, hb, h⟩ | ⟨ho, hb, h⟩ | ⟨ho, h⟩ | ⟨ho, h⟩ | ⟨ho, h⟩ | ⟨ho, h⟩ | ⟨ho, h⟩ | ⟨ho, h⟩ |
    ⟨ho, h⟩ := writeOffset_cases off v s <;> rw [h] <;> simp_all

/-- What a step can do to OVERRUN: clear it by a reset, leave it, set it by a CMD write to a busy block
(40_command.md R92), clear it by a STATUS write (60_exceptions.md R192). -/
theorem step_overrun_cases {s t : State} (h : step s = .next t) :
    (∃ rest, s.inputs = .reset :: rest ∧ t.overrun = false) ∨
    t.overrun = s.overrun ∨
    (∃ v rest, Delivers s 0x00 (.write v) rest ∧ t.overrun = (s.overrun || s.busy)) ∨
    (∃ v rest, Delivers s 0x04 (.write v) rest ∧ t.overrun = (s.overrun && !v.getLsbD 2)) := by
  obtain ⟨rest, hin, rfl⟩ | ⟨-, rfl⟩ | ⟨r, ops, rfl⟩ | ⟨off, v, rest, hdel, rfl⟩ :=
    step_cases_reset_or_due h
  · exact .inl ⟨rest, hin, rfl⟩
  · exact .inr (.inl rfl)
  · exact .inr (.inl rfl)
  refine .inr ?_
  rw [answer_overrun, writeOffset_overrun]
  split_ifs with h0 h4
  · subst h0
    exact .inr (.inl ⟨v, rest, hdel, by simp⟩)
  · subst h4
    exact .inr (.inr ⟨v, rest, hdel, rfl⟩)
  · exact .inl rfl

/-- Settles O51: both changes are read off what a step can do to OVERRUN. -/
theorem overrunIsSticky : Obligations.OverrunIsSticky := by
  unfold Obligations.OverrunIsSticky
  intro s t h
  refine ⟨fun hs ht => ?clears, fun rest hin => ?reset, fun hd rest v hv hdel => ?status,
    fun hs ht => ?sets⟩
  case clears =>
    obtain ⟨rest, hin, -⟩ | hkeep | ⟨v, rest, -, hset⟩ | ⟨v, rest, hdel, hclear⟩ := step_overrun_cases h
    · exact ⟨rest, .inl hin⟩
    · simp [hkeep, hs] at ht
    · simp [hset, hs] at ht
    · exact ⟨rest, .inr ⟨v, by simpa [hclear, hs] using ht, hdel⟩⟩
  case reset =>
    rw [step_reset hin, Host.Outcome.next.injEq] at h
    rw [← h, applyReset_overrun]
  case status =>
    rw [step_writeReg .status hd hdel, Host.Outcome.next.injEq] at h
    simp [← h, writeReg, hv]
  case sets =>
    obtain ⟨rest, -, hfalse⟩ | hkeep | ⟨v, rest, hdel, hset⟩ | ⟨v, rest, -, hclear⟩ :=
      step_overrun_cases h
    · simp [hfalse] at ht
    · simp [hkeep, hs] at ht
    · exact ⟨by simpa [hset, hs] using ht, v, rest, hdel⟩
    · simp [hclear, hs] at ht

/-- What a step can do to IRQ: a reset clears it, a completion makes it IEN, a CMD write clears it when it
is accepted, a STATUS write where it holds a 1 in bit 1, a CTRL write makes it DONE AND the bit; else it
stays (60_exceptions.md R195, R196). -/
theorem step_irq_cases {s t : State} (h : step s = .next t) :
    (∃ rest, s.inputs = .reset :: rest ∧ t.irq = false) ∨
    (Due s ∧ t.irq = s.ien) ∨
    t.irq = s.irq ∨
    (∃ v rest, Delivers s 0x00 (.write v) rest ∧ t.irq = (s.irq && s.busy)) ∨
    (∃ v rest, Delivers s 0x04 (.write v) rest ∧ t.irq = (s.irq && !v.getLsbD 1)) ∨
    (∃ v rest, Delivers s 0x08 (.write v) rest ∧ t.irq = (s.done && v.getLsbD 0)) := by
  obtain ⟨rest, hin, rfl⟩ | ⟨hdue, rfl⟩ | ⟨r, ops, rfl⟩ | ⟨off, v, rest, hdel, rfl⟩ :=
    step_cases_reset_or_due h
  · exact .inl ⟨rest, hin, rfl⟩
  · exact .inr (.inl ⟨hdue, rfl⟩)
  · exact .inr (.inr (.inl rfl))
  refine .inr (.inr ?_)
  simp only [State.irq, answer_done, answer_ien, writeOffset_done, writeOffset_ien]
  by_cases h0 : off = 0x00
  · subst h0
    exact .inr (.inl ⟨v, rest, hdel, by simp [Bool.and_right_comm]⟩)
  by_cases h4 : off = 0x04
  · subst h4
    exact .inr (.inr (.inl ⟨v, rest, hdel, by simp [Bool.and_right_comm]⟩))
  by_cases h8 : off = 0x08
  · subst h8
    exact .inr (.inr (.inr ⟨v, rest, hdel, by simp⟩))
  · exact .inl (by simp [h0, h4, h8])

/-- Settles O50: of what a step can do to IRQ, two ways raise it and four let it fall. -/
theorem irqFollowsDoneAndIen : Obligations.IrqFollowsDoneAndIen := by
  unfold Obligations.IrqFollowsDoneAndIen
  intro s t h
  refine ⟨rfl, fun ⟨hd, hr⟩ hien => ?completion, fun hd v rest => ⟨fun hdel => ?ctrl,
    fun hdel hv => ?status⟩, fun hs ht => ?rises, fun hs ht => ?falls⟩
  case completion =>
    rw [step_due hd hr, Host.Outcome.next.injEq] at h
    simp [← h, State.irq, hien]
  case ctrl =>
    rw [step_writeReg .ctrl hd hdel, Host.Outcome.next.injEq] at h
    rw [← h]
    rfl
  case status =>
    rw [step_writeReg .status hd hdel, Host.Outcome.next.injEq] at h
    simp [← h, State.irq, writeReg, hv]
  case rises =>
    obtain ⟨_, -, hirq⟩ | ⟨hdue, -⟩ | hirq | ⟨_, _, -, hirq⟩ | ⟨_, _, -, hirq⟩ | ⟨v, rest, hdel, hirq⟩ :=
      step_irq_cases h
    case inr.inl => exact .inl hdue
    case inr.inr.inr.inr.inr =>
      obtain ⟨hdone, hv⟩ := Bool.and_eq_true_iff.1 (hirq.symm.trans ht)
      exact .inr ⟨hdone, v, rest, hv, hdel⟩
    all_goals simp [hirq, hs] at ht
  case falls =>
    have ⟨hdone, hien⟩ : s.done = true ∧ s.ien = true := Bool.and_eq_true_iff.1 hs
    obtain ⟨rest, hin, -⟩ | ⟨-, hirq⟩ | hirq | ⟨v, rest, hdel, hirq⟩ | ⟨v, rest, hdel, hirq⟩ |
      ⟨v, rest, hdel, hirq⟩ := step_irq_cases h
    · exact ⟨rest, .inl hin⟩
    · simp [hirq, hien] at ht
    · simp [hirq, hs] at ht
    · have hidle : s.inflight = none := by simpa [hirq, hs, State.busy] using ht
      exact ⟨rest, .inr (.inr (.inr ⟨hidle, v, hdel⟩))⟩
    · exact ⟨rest, .inr (.inl ⟨v, by simpa [hirq, hs] using ht, hdel⟩)⟩
    · exact ⟨rest, .inr (.inr (.inl ⟨v, by simpa [hirq, hdone] using ht, hdel⟩))⟩

/-- Settles O16: the access is no reset, so the completion comes first; it leaves the host's list as it
is and the block idle, so the write is accepted. -/
theorem completionComesBeforeAWriteOfTheSameCycle :
    Obligations.CompletionComesBeforeAWriteOfTheSameCycle := by
  unfold Obligations.CompletionComesBeforeAWriteOfTheSameCycle
  intro s w rest hd hdel
  have hdone : step s = .next (complete (dueResult s) s) :=
    step_due hd fun ops hin => nomatch hdel.symm.trans hin
  obtain ⟨k, haccept⟩ := cmdWriteWhileIdleIsAccepted (complete (dueResult s) s) w rest rfl hdel
  exact ⟨_, _, hdone, rfl, rfl, rfl, haccept, rfl, rfl, rfl, rfl, rfl, rfl, rfl⟩

/-! ## The causes of each command -/

/-- The sets of flags a command can raise, from the table of 60_exceptions.md R190 and the pairs of R194. -/
def causes : Instr → List Flags
  | .nop | .drdec | .dvdec => [{}]
  | .fext => [{}, { empty := true }, { ncontig := true }]
  | .fins =>
    [{}, { empty := true }, { vovf := true }, { ncontig := true }, { vovf := true, ncontig := true }]
  | .vbits => [{}, { badaddr := true }]
  | .ffbit => [{}, { badaddr := true }, { badbit := true }, { badaddr := true, badbit := true }]
  | .drenc => [{}, { dom := true }, { nocand := true }, { nocand := true, dom := true }]
  | .dvenc => [{}, { dom := true }]
  | .valid => [{}, { sat := true }]

theorem fext_mask_mem_causes : ∀ gap, { ncontig := gap } ∈ causes .fext := by decide

theorem fins_mask_mem_causes : ∀ wide gap, { vovf := wide, ncontig := gap } ∈ causes .fins := by
  decide

theorem ffbit_mem_causes : ∀ addr bit, { badaddr := addr, badbit := bit } ∈ causes .ffbit := by
  decide

theorem drenc_mem_causes : ∀ miss out, { nocand := miss, dom := out } ∈ causes .drenc := by decide

theorem dvenc_mem_causes : ∀ out, { dom := out } ∈ causes .dvenc := by decide

theorem valid_mem_causes : ∀ sat, { sat := sat } ∈ causes .valid := by decide

/-- What a command raises is a set of its list, whatever its operands. -/
theorem opResult_flags_mem_causes (i : Instr) (s : State) : (opResult i s).flags ∈ causes i := by
  cases i with
  | nop | drdec | dvdec => exact List.mem_singleton_self _
  | fext =>
    simp only [opResult, fextOp]
    split
    · exact .tail _ (.head _)
    · exact fext_mask_mem_causes _
  | fins =>
    simp only [opResult, finsOp]
    split
    · exact .tail _ (.head _)
    · exact fins_mask_mem_causes _ _
  | vbits =>
    simp only [opResult, vbitsOp]
    split
    · exact .tail _ (.head _)
    · exact .head _
  | ffbit => exact ffbit_mem_causes _ _
  | drenc =>
    obtain ⟨-, hop⟩ | ⟨_, _, -, hop⟩ := drencOp_spec s.params.fXosc s.snapA
    all_goals
      rw [opResult, hop]
      exact drenc_mem_causes _ _
  | dvenc => exact dvenc_mem_causes _
  | valid => exact valid_mem_causes _

/-- Settles O15: from cleared flags a completion leaves what its command raises. -/
theorem causesOfEachCommand : Obligations.CausesOfEachCommand := by
  unfold Obligations.CausesOfEachCommand
  intro i s hflags
  have hcauses := opResult_flags_mem_causes i s
  refine ⟨_, exec_eq_complete i s, ?_⟩
  rw [complete_flags_of_clear hflags]
  refine ⟨?none, ?_, ?_, ?_, ?_, ?_, ?_, ?_⟩
  case none => rintro (rfl | rfl | rfl) <;> rfl
  all_goals
    rintro rfl
    exact hcauses

/-! ## From acceptance to completion -/

@[simp] theorem writeOffset_inputs (off : Nat) (v : Word) (s : State) :
    (writeOffset off v s).inputs = s.inputs := by
  obtain ⟨-, -, h⟩ | ⟨-, -, h⟩ | ⟨-, h⟩ | ⟨-, h⟩ | ⟨-, h⟩ | ⟨-, h⟩ | ⟨-, h⟩ | ⟨-, h⟩ | ⟨-, h⟩ :=
    writeOffset_cases off v s <;> simp [h]

/-- A write to a busy block leaves the in-flight count alone (40_command.md R92). -/
theorem writeOffset_inflight_of_busy {s : State} (hb : s.busy = true) (off : Nat) (v : Word) :
    (writeOffset off v s).inflight = s.inflight := by
  obtain ⟨-, -, h⟩ | ⟨-, hidle, -⟩ | ⟨-, h⟩ | ⟨-, h⟩ | ⟨-, h⟩ | ⟨-, h⟩ | ⟨-, h⟩ | ⟨-, h⟩ | ⟨-, h⟩ :=
    writeOffset_cases off v s
  case inr.inl => exact absurd (hb.symm.trans hidle) (by decide)
  all_goals rw [h]

/-- The host's list only gets shorter, from the front. -/
theorem step_inputs_suffix {s t : State} (h : step s = .next t) : t.inputs <:+ s.inputs := by
  obtain ⟨-, -, rfl⟩ | ⟨rest, hin, rfl⟩ | ⟨-, hbus⟩ := step_cases h
  · exact List.suffix_refl _
  · exact hin ▸ List.suffix_cons ..
  obtain ⟨-, rfl⟩ | ⟨rest, hin, rfl⟩ | ⟨rest, hin, rfl⟩ | ⟨a, rest, hin, ha⟩ := hbus
  · exact List.suffix_refl _
  · exact hin ▸ List.suffix_cons ..
  · rw [poll_inputs]
    split
    · exact List.suffix_refl _
    · exact hin ▸ List.suffix_cons ..
  · have ht : t.inputs = rest := by
      obtain ⟨-, rfl⟩ | ⟨off, -, -, ⟨-, rfl⟩ | ⟨v, -, rfl⟩⟩ := step_access_cases ha
      · rfl
      · rfl
      · rw [answer_inputs, writeOffset_inputs, dequeue_inputs]
    rw [ht, hin]
    exact List.suffix_cons ..

/-- The host neither resets the block nor makes an access that fails. -/
def HarmlessHost (s : State) : Prop := ∀ op ∈ s.inputs, HostOp.harmless s.params op = true

theorem HarmlessHost.not_reset {s : State} (h : HarmlessHost s) (rest : List HostOp) :
    s.inputs ≠ .reset :: rest :=
  fun hin => Bool.false_ne_true (h .reset (hin ▸ List.mem_cons_self))

theorem HarmlessHost.step_eq_next {s : State} (h : HarmlessHost s) : ∃ t, step s = .next t := by
  obtain ⟨hrefused, hfault⟩ := onlyBadBusAccessesStopTheMachine s
  cases hs : step s with
  | next t => exact ⟨t, rfl⟩
  | refused r => exact absurd hs (hrefused r)
  | fault r =>
    obtain ⟨-, -, a, rest, hin, hlo, hhi, hbad⟩ := (hfault r).1 hs
    have hop := h (.access a) (hin ▸ List.mem_cons_self)
    rw [HostOp.harmless, inAperture_iff.2 ⟨hlo, hhi⟩, wordAligned_eq_false_iff.2 hbad] at hop
    cases hop

theorem HarmlessHost.of_step {s t : State} (h : HarmlessHost s) (hst : step s = .next t) :
    HarmlessHost t := by
  intro op hop
  rw [step_keeps_params hst]
  exact h op ((step_inputs_suffix hst).mem hop)

/-- A cycle of a harmless host counts the command in flight down and keeps its word. -/
theorem HarmlessHost.step_counts {s t : State} {k : Nat} (h : HarmlessHost s)
    (hk : s.inflight = some (k + 1)) (hst : step s = .next t) :
    t.inflight = some k ∧ t.cmd = s.cmd := by
  obtain ⟨hd, -⟩ | ⟨-, r, ops, rfl⟩ | ⟨-, off, v, rest, -, rfl⟩ :=
    step_cases_of_not_reset hst h.not_reset
  · simp [hk] at hd
  · simp [hk]
  · have hb : (dequeue rest (tick s)).busy = true := by simp [State.busy, hk]
    have hacc : ¬ (off = 0x00 ∧ (dequeue rest (tick s)).busy = false) := by simp [hb]
    obtain ⟨hcmd, -⟩ := writeOffset_keeps_command (v := v) hacc
    rw [answer_inflight, writeOffset_inflight_of_busy hb, answer_cmd, hcmd]
    simp [hk]

/-- A command in flight completes, `k + 1` steps after its count was `k` (70_reset_and_hazards.md
R219). -/
theorem HarmlessHost.runSteps_completes {s : State} {k : Nat} (h : HarmlessHost s)
    (hk : s.inflight = some k) :
    ∃ t, runSteps (k + 1) s = .next t ∧ t.inflight = none ∧ t.done = true ∧
      t.lastop = opcField s.cmd ∧ t.cmd = s.cmd := by
  induction k generalizing s with
  | zero =>
    exact ⟨_, runSteps_succ_of_step (step_due hk h.not_reset), rfl, rfl, rfl, rfl⟩
  | succ k ih =>
    obtain ⟨u, hst⟩ := h.step_eq_next
    obtain ⟨hcount, hcmd⟩ := h.step_counts hk hst
    rw [runSteps_succ_of_step hst, ← hcmd]
    exact ih (h.of_step hst) hcount

/-- The state a CMD write to an idle block leaves. -/
def accepted (w : Word) (rest : List HostOp) (s : State) : State :=
  answer .ack (accept w (dequeue rest s))

theorem runSteps_cmd_of_idle {s : State} {w : Word} {rest : List HostOp} (hidle : s.inflight = none)
    (hdel : Delivers s 0x00 (.write w) rest) (n : Nat) :
    runSteps (1 + n) s = runSteps n (accepted w rest s) := by
  have haccept : writeReg .cmd w (dequeue rest s) = accept w (dequeue rest s) :=
    writeReg_cmd_of_idle (s := dequeue rest s) hidle w
  rw [Nat.add_comm, runSteps_succ_of_step (step_writeReg_of_idle .cmd hidle hdel), haccept]
  rfl

/-- An accepted word completes its latency later (00_scope.md R7). -/
theorem accepted_completes {s : State} {w : Word} {rest : List HostOp}
    (hwf : Params.wf s.params = true) (hhost : HarmlessHost (accepted w rest s)) :
    ∃ u, runSteps (wordLatency s.params.latency w) (accepted w rest s) = .next u ∧
      u.inflight = none ∧ u.done = true ∧ u.lastop = opcField w ∧ u.cmd = w := by
  have hcount : (accepted w rest s).inflight = some (wordLatency s.params.latency w - 1) := rfl
  have hrun := hhost.runSteps_completes hcount
  rwa [Nat.sub_one_add_one (wordLatency_pos hwf w).ne'] at hrun

/-- Acceptance forgets the flags of the command before (60_exceptions.md R191). -/
theorem accepted_flags_irrelevant (w : Word) (rest : List HostOp) (s : State) (f : Flags) :
    accepted w rest { s with flags := f } = accepted w rest s := rfl

/-! ## The conditions of the table of 60_exceptions.md R190 -/

/-- Where the span of a mask is known, a condition on it is one on its two ends. -/
theorem exists_spanOf_iff {m lo hi : Nat} (h : SpanOf m lo hi) {q : Nat → Nat → Prop} :
    (∃ lo hi, SpanOf m lo hi ∧ q lo hi) ↔ q lo hi := by
  constructor
  · rintro ⟨lo', hi', h', hq⟩
    obtain ⟨rfl, rfl⟩ := h.unique h'
    exact hq
  · exact fun hq => ⟨lo, hi, h, hq⟩

theorem not_exists_spanOf_of_empty {m : Nat} (h : m = 0) (q : Nat → Nat → Prop) :
    ¬ ∃ lo hi, SpanOf m lo hi ∧ q lo hi :=
  fun ⟨_, _, hspan, _⟩ => hspan.ne_zero h

theorem fextOp_empty_iff (a b : Word) : (fextOp a b).flags.empty = true ↔ b.toNat % 256 = 0 := by
  by_cases h : b.toNat % 256 = 0
  · simp [fextOp_of_empty_mask a h, h]
  · obtain ⟨lo, hi, hspan⟩ := exists_spanOf_of_mask_ne_zero h
    simp [fextOp_of_spanOf a hspan, h]

theorem fextOp_ncontig_iff (a b : Word) :
    (fextOp a b).flags.ncontig = true ↔
      ∃ lo hi, SpanOf (b.toNat % 256) lo hi ∧ hasGap (b.toNat % 256) lo hi = true := by
  by_cases h : b.toNat % 256 = 0
  · simp only [fextOp_of_empty_mask a h, not_exists_spanOf_of_empty h, Bool.false_eq_true]
  · obtain ⟨lo, hi, hspan⟩ := exists_spanOf_of_mask_ne_zero h
    rw [fextOp_of_spanOf a hspan, exists_spanOf_iff hspan]

theorem finsOp_vovf_iff (a b c : Word) :
    (finsOp a b c).flags.vovf = true ↔
      ∃ lo hi, SpanOf (b.toNat % 256) lo hi ∧ c.toNat ≥ 2 ^ (hi - lo + 1) := by
  by_cases h : b.toNat % 256 = 0
  · simp only [finsOp_of_empty_mask a c h, not_exists_spanOf_of_empty h, Bool.false_eq_true]
  · obtain ⟨lo, hi, hspan⟩ := exists_spanOf_of_mask_ne_zero h
    rw [finsOp_of_spanOf a c hspan, exists_spanOf_iff hspan]
    exact decide_eq_true_iff

/-- FEXT and FINS judge the mask alike (60_exceptions.md R190). -/
theorem finsOp_mask_flags (a b c : Word) :
    (finsOp a b c).flags.empty = (fextOp a b).flags.empty ∧
      (finsOp a b c).flags.ncontig = (fextOp a b).flags.ncontig := by
  unfold finsOp fextOp
  dsimp only
  split <;> exact ⟨rfl, rfl⟩

theorem vbitsOp_badaddr_iff (cat : Catalog) (a : Word) :
    (vbitsOp cat a).flags.badaddr = true ↔ a.toNat > 46 := by
  by_cases h : a.toNat > 46
  · simp [vbitsOp_of_bad cat h, h]
  · simp [vbitsOp_of_good cat (not_lt.1 h), h]

/-- ILLEGAL is raised by no command (60_exceptions.md R193). -/
theorem opResult_illegal (i : Instr) (s : State) : (opResult i s).flags.illegal = false := by
  have hnone : ∀ f ∈ causes i, f.illegal = false := by cases i <;> decide
  exact hnone _ (opResult_flags_mem_causes i s)

/-! ## The flags of the word in CMD -/

/-- A flag that is not ILLEGAL is raised by the word of a command that raises it. -/
theorem dueResult_flag_iff {p : Flags → Bool} (hill : p { illegal := true } = false) (s : State) :
    p (dueResult s).flags = true ↔ ∃ i, s.cmd = encode i ∧ p (opResult i s).flags = true := by
  constructor
  · intro hp
    cases h : decode s.cmd with
    | ok i => exact ⟨i, eq_encode_of_decode h, dueResult_of_ok h ▸ hp⟩
    | error e => simp [dueResult_of_error h, hill] at hp
  · rintro ⟨i, hcmd, hp⟩
    rwa [dueResult_of_ok (hcmd ▸ decode_encode i)]

/-- A flag that two commands can raise, each under a condition of its own. -/
theorem dueResult_flag_iff_of_two {p : Flags → Bool} (hill : p { illegal := true } = false) {s : State}
    (j k : Instr) {qj qk : Prop}
    (hby : ∀ i, p (opResult i s).flags = true → opcodeOf i = opcodeOf j ∨ opcodeOf i = opcodeOf k)
    (hj : p (opResult j s).flags = true ↔ qj) (hk : p (opResult k s).flags = true ↔ qk) :
    p (dueResult s).flags = true ↔ s.cmd = encode j ∧ qj ∨ s.cmd = encode k ∧ qk := by
  rw [dueResult_flag_iff hill, ← hj, ← hk]
  constructor
  · rintro ⟨i, hcmd, hp⟩
    obtain h | h := hby i hp
    · obtain rfl := opcodeOf_injective h
      exact .inl ⟨hcmd, hp⟩
    · obtain rfl := opcodeOf_injective h
      exact .inr ⟨hcmd, hp⟩
  · rintro (h | h)
    · exact ⟨j, h⟩
    · exact ⟨k, h⟩

/-- A flag that one command can raise. -/
theorem dueResult_flag_iff_of_one {p : Flags → Bool} (hill : p { illegal := true } = false) {s : State}
    (j : Instr) {q : Prop} (hby : ∀ i, p (opResult i s).flags = true → opcodeOf i = opcodeOf j)
    (hj : p (opResult j s).flags = true ↔ q) :
    p (dueResult s).flags = true ↔ s.cmd = encode j ∧ q :=
  (dueResult_flag_iff_of_two hill j j (fun i hp => .inl (hby i hp)) hj hj).trans or_self_iff

/-- The words that are in no row of the table are the ones the decoder refuses (30_encoding.md R72). -/
theorem not_listed_of_decode_eq_error {w : Word} {e : Illegal} (h : decode w = .error e) :
    w.toNat / 2 ^ 8 ≠ 0 ∨ w.toNat % 2 ^ 8 ∉
      [0x00, 0x01, 0x02, 0x03, 0x04, 0x10, 0x11, 0x12, 0x13, 0x20] := by
  obtain ⟨-, hill⟩ := wordIsCommandIffReservedZeroAndOpcodeListed w
  refine (hill.1 ⟨e, h⟩).imp_right fun hranges => ?_
  simp only [List.mem_cons, List.not_mem_nil, or_false]
  dsimp only at hranges
  omega

theorem dueResult_illegal_iff (s : State) :
    (dueResult s).flags.illegal = true ↔
      (s.cmd.toNat / 2 ^ 8 ≠ 0 ∨ s.cmd.toNat % 2 ^ 8 ∉
        [0x00, 0x01, 0x02, 0x03, 0x04, 0x10, 0x11, 0x12, 0x13, 0x20]) := by
  constructor
  · intro hill
    cases h : decode s.cmd with
    | ok i => simp [dueResult_of_ok h, opResult_illegal] at hill
    | error e => exact not_listed_of_decode_eq_error h
  · intro hw
    obtain ⟨e, h⟩ := decode_eq_error_of_not_listed hw
    rw [dueResult_of_error h]

/-- The result of the word in CMD raises the flags of the table: column "raised by" is the invariant's
FlagsExplained, column "condition" is the command's own rule. -/
theorem causesOf_dueResult (s : State) : CausesOf s (dueResult s).flags := by
  have hby (i : Instr) := (resultExplained_opResult i s).flags
  obtain ⟨hempty, hncontig⟩ := finsOp_mask_flags s.snapA s.snapB s.snapC
  constructor
  case illegal => exact dueResult_illegal_iff s
  case empty =>
    rw [or_and_right]
    exact dueResult_flag_iff_of_two (p := Flags.empty) rfl .fext .fins (fun i => (hby i).empty_by)
      (fextOp_empty_iff _ _) (hempty ▸ fextOp_empty_iff _ _)
  case ncontig =>
    rw [or_and_right]
    exact dueResult_flag_iff_of_two (p := Flags.ncontig) rfl .fext .fins (fun i => (hby i).ncontig_by)
      (fextOp_ncontig_iff _ _) (hncontig ▸ fextOp_ncontig_iff _ _)
  case vovf =>
    exact dueResult_flag_iff_of_one (p := Flags.vovf) rfl .fins (fun i => (hby i).vovf_by)
      (finsOp_vovf_iff _ _ _)
  case badaddr =>
    rw [or_and_right]
    exact dueResult_flag_iff_of_two (p := Flags.badaddr) rfl .vbits .ffbit
      (fun i => (hby i).badaddr_by) (vbitsOp_badaddr_iff _ _) badAddr_iff
  case badbit =>
    exact dueResult_flag_iff_of_one (p := Flags.badbit) rfl .ffbit (fun i => (hby i).badbit_by)
      badBit_iff
  case nocand =>
    exact dueResult_flag_iff_of_one (p := Flags.nocand) rfl .drenc (fun i => (hby i).nocand_by)
      (drencOp_nocand_iff _ _)
  case dom =>
    exact dueResult_flag_iff_of_two (p := Flags.dom) rfl .drenc .dvenc (fun i => (hby i).dom_by)
      (Bool.eq_iff_iff.1 (drencOp_dom _ _)) Iff.rfl
  case sat =>
    exact dueResult_flag_iff_of_one (p := Flags.sat) rfl .valid (fun i => (hby i).sat_by)
      (by rw [opResult_valid]; exact decide_eq_true_iff)

/-- Settles O58: the acceptance forgets the earlier flags and the command completes whatever a
harmless host does; a completion, from the flags an acceptance has cleared, leaves those of its result. -/
theorem flagsDescribeOnlyTheLastCompletedCommand :
    Obligations.FlagsDescribeOnlyTheLastCompletedCommand := by
  unfold Obligations.FlagsDescribeOnlyTheLastCompletedCommand
  constructor
  · intro s f w rest hwf hidle hdel hharmless
    obtain ⟨u, hrun, hnone, hdone, hlast, hcmd⟩ := accepted_completes (rest := rest) hwf hharmless
    refine ⟨u, ?_, ?_, hcmd, hnone, hdone, hlast⟩
    · rw [runSteps_cmd_of_idle hidle hdel, hrun]
    · rw [runSteps_cmd_of_idle (s := { s with flags := f }) hidle hdel, accepted_flags_irrelevant, hrun]
  · rintro s hinv ⟨hd, hr⟩
    obtain ⟨-, hclear⟩ := hinv.busy_clear ((State.busy_eq_true_iff s).2 ⟨0, hd⟩)
    refine ⟨_, step_due hd hr, ?_⟩
    rw [complete_flags_of_clear hclear]
    exact causesOf_dueResult s

end Sys2Proof.Machine
end

section
/-! The statements of 70_reset_and_hazards.md: completion within a bounded number of steps, and the
reset input. -/

namespace Sys2Proof.Machine

open Sys2Proof.Claims

/-- Settles O17: a harmless host stops no step, so the count runs down to the completion. -/
theorem acceptedCommandCompletes : Obligations.AcceptedCommandCompletes := by
  unfold Obligations.AcceptedCommandCompletes
  intro s k hk hharmless
  exact HarmlessHost.runSteps_completes hharmless hk

@[simp] theorem applyReset_statusWord (rest : List HostOp) (s : State) :
    (applyReset rest s).statusWord = 0 := by
  simp [State.statusWord, State.busy]

@[simp] theorem applyReset_ctrlWord (rest : List HostOp) (s : State) :
    (applyReset rest s).ctrlWord = 0 := by
  simp [State.ctrlWord]

@[simp] theorem applyReset_irq (rest : List HostOp) (s : State) :
    (applyReset rest s).irq = false := by
  simp [State.irq]

/-- Acceptance leaves OVERRUN as it was (40_command.md R90). -/
theorem step_cmd_of_idle {s : State} {w : Word} {rest : List HostOp} (hidle : s.inflight = none)
    (hdel : Delivers s 0x00 (.write w) rest) :
    ∃ u, step s = .next u ∧ u.cmd = w ∧ u.busy = true ∧ u.overrun = s.overrun := by
  obtain ⟨k, hstep⟩ := cmdWriteWhileIdleIsAccepted s w rest hidle hdel
  exact ⟨_, hstep, rfl, rfl, rfl⟩

/-- Settles O54: the step is the reset whatever is in flight, and the block it leaves is idle with
OVERRUN 0, so that it accepts the next CMD write. -/
theorem resetInputPutsEveryRegisterAtItsResetValue :
    Obligations.ResetInputPutsEveryRegisterAtItsResetValue := by
  unfold Obligations.ResetInputPutsEveryRegisterAtItsResetValue
  intro s rest hreset
  have haccepts : ∀ w rest', Delivers (applyReset rest s) 0x00 (.write w) rest' →
      ∃ u, step (applyReset rest s) = .next u ∧ u.cmd = w ∧ u.busy = true ∧ u.overrun = false :=
    fun _ _ hdel => step_cmd_of_idle (applyReset_inflight rest s) hdel
  refine ⟨applyReset rest s, step_reset hreset, ?_⟩
  simpa using haccepts

end Sys2Proof.Machine
end
